-- ==== Sys2Proof/Word.lean ====
section
/-! DEFINITION. The widths the spec fixes (rule R10): command words, data words, bytes. -/

namespace Sys2Proof

/-- A byte of one of the four streams (rule R42). -/
abbrev Byte := BitVec 8

/-- A command word (rule R80). -/
abbrev CmdWord := BitVec 32

/-- An operand, a response's data, a table slot, a 64-bit register (rules R10, R80). -/
abbrev Word := BitVec 64

end Sys2Proof
end

