-- ==== Sys2Proof/Config.lean ====
section
/-! DEFINITION. What an implementation fixes and what the spec leaves unspecified:
the table depths a machine right after reset reports, and the free values of the table slots. -/

namespace Sys2Proof

/-- MAX_LOG2_F of the machine `State.reset` describes (rule R8: an integer in 0..23).
DESIGN CHOICE, log entry 3: the spec leaves the number open. The depth is data of State, and the
statements about commands hold for every depth. -/
def Config.maxLog2F : Fin 24 := 23

/-- MAX_LOG2_D of the machine `State.reset` describes (rule R9). DESIGN CHOICE, log entry 3. -/
def Config.maxLog2D : Fin 24 := 23

/-- The value of slot `index` in the unspecified table image number `draw` (rule R251: "a model treats
each slot as an arbitrary value chosen at reset"). A free value: nothing constrains it (log entry 4). -/
opaque Config.unspecifiedSlot : (draw : Nat) → (index : Nat) → Word

end Sys2Proof
end

