-- ==== Sys2Proof/Machine/Ram.lean ====
section
/-! DEFINITION. A prediction table RAM (rules R26, R27, R60): 64-bit slots by slot number, held as a sorted
list of the slots that differ from what an unlisted slot reads as. The slot is the smallest unit any access
reaches (rule R63), so it is the memory's unit (log entry 5). -/

namespace Sys2Proof.Machine

/-- What an unlisted slot reads as. -/
inductive Fill where
  | zero                        -- after CLEAR (rule R135)
  | unspecified (draw : Nat)    -- since hardware reset (rule R251): the free values of image `draw`
deriving DecidableEq, Repr

/-- A slot number and what the slot holds. -/
abbrev Slot := Nat × Word

/-- A table RAM. -/
structure Ram where
  fill : Fill
  cells : List Slot
deriving DecidableEq, Repr

/-- The one definition of what an unlisted slot reads as. -/
def fillSlot : Fill → Nat → Word
  | .zero, _ => 0
  | .unspecified draw, index => Config.unspecifiedSlot draw index

/-- The listed value of a slot, if it is listed. -/
def cellsFind : List Slot → Nat → Option Word
  | [], _ => none
  | (j, u) :: rest, i => if i = j then some u else cellsFind rest i

/-- List a slot's value, keeping the slot numbers strictly rising. -/
def cellsPut (i : Nat) (v : Word) : List Slot → List Slot
  | [] => [(i, v)]
  | (j, u) :: rest =>
    if i < j then (i, v) :: (j, u) :: rest
    else if i = j then (i, v) :: rest
    else (j, u) :: cellsPut i v rest

/-- Take a slot off the list. -/
def cellsDrop (i : Nat) : List Slot → List Slot
  | [] => []
  | (j, u) :: rest => if i = j then cellsDrop i rest else (j, u) :: cellsDrop i rest

/-- The value of slot `i`: `MemRead` of rule R15. -/
def Ram.read (m : Ram) (i : Nat) : Word := (cellsFind m.cells i).getD (fillSlot m.fill i)

/-- The RAM after slot `i` takes the value `v`: `MemWrite` of rule R15. Writing what an unlisted slot reads
as takes the slot off the list, so that RAMs of one fill with equal contents are equal data. -/
def Ram.write (m : Ram) (i : Nat) (v : Word) : Ram :=
  { m with cells := if v = fillSlot m.fill i then cellsDrop i m.cells else cellsPut i v m.cells }

/-- The RAM with every slot zero (rule R135). -/
def Ram.cleared : Ram := { fill := .zero, cells := [] }

/-- The RAM after hardware reset: every slot unspecified (rule R251). -/
def Ram.unspecified (draw : Nat) : Ram := { fill := .unspecified draw, cells := [] }

/-- The canonical form of a RAM of `depth` slots: slot numbers strictly rising, each below the depth, and
no slot listed with the value it would read unlisted. -/
abbrev Ram.wf (depth : Nat) (m : Ram) : Prop :=
  m.cells.Pairwise (fun a b => a.1 < b.1) ∧ ∀ c ∈ m.cells, c.1 < depth ∧ c.2 ≠ fillSlot m.fill c.1

end Sys2Proof.Machine
end

