-- ==== Sys2Proof/Syntax.lean ====
section
/-! DEFINITION. The command set as syntax: one constructor per row of the opcode map (rule R89). -/

namespace Sys2Proof

/-- The word width CFG.W selects (rules R17, R22, R83). -/
inductive Width where
  | w64   -- W = 0
  | w32   -- W = 1
deriving DecidableEq, Repr

/-- The two predictors and their tables: the T bit of RDTBL and WRTBL (rule R87) and the
type bit of a header field (rule R94). -/
inductive Table where
  | fcm    -- T = 0, type 0: TF
  | dfcm   -- T = 1, type 1: TD
deriving DecidableEq, Repr

/-- A command (rules R82-R89). The fields are those of the command word, at their widths; the three
commands that read the 64-bit operand (rule R88) carry it. -/
inductive Instr where
  | nop
  | cfg (w : Width) (flog2 dlog2 : BitVec 5)
  | hargs (lf rf ld rd : BitVec 6)
  | seed (operand : Word)
  | defaults
  | clear
  | beginCall (mode : BitVec 2) (k : Bool)   -- BEGIN
  | encv (operand : Word)
  | decv
  | endCall                                  -- END
  | rdreg (sel : BitVec 4)
  | rdtbl (t : Table) (idx : BitVec 23)
  | wrtbl (t : Table) (idx : BitVec 23) (operand : Word)
  | errclr
deriving DecidableEq, Repr

end Sys2Proof
end

