-- ==== Sys2Proof/WellFormed.lean ====
section
/-! DEFINITION. Which command terms are legal commands (rule R90): the two field values the format
holds and the spec reserves. Reserved bits and reserved opcodes have no term. -/

namespace Sys2Proof

/-- A BEGIN's MODE field is enc, size or dec; the value 00 is reserved (rules R85, R90). -/
def beginModeLegal (mode : BitVec 2) : Bool := mode != 0

/-- A RDREG's SEL field names a register; 11..15 are reserved (rules R86, R90). -/
def selLegal (sel : BitVec 4) : Bool := decide (sel.toNat ≤ 10)

/-- A legal command (rule R90). -/
def Instr.wellFormed : Instr → Bool
  | .nop => true
  | .cfg _ _ _ => true
  | .hargs _ _ _ _ => true
  | .seed _ => true
  | .defaults => true
  | .clear => true
  | .beginCall mode _ => beginModeLegal mode
  | .encv _ => true
  | .decv => true
  | .endCall => true
  | .rdreg sel => selLegal sel
  | .rdtbl _ _ => true
  | .wrtbl _ _ _ => true
  | .errclr => true

end Sys2Proof
end

