-- ==== Sys2Proof/Decode.lean ====
section
/-! DEFINITION. Command words and commands (`30_encoding.md`, Part 1): the decoder, total on every word and
rejecting by name, and the encoder. Decoding depends on the command word alone (rule R80); the operand is
carried into the three commands that read it (rule R88). -/

namespace Sys2Proof

/-- Why a command word is illegal (rule R90). -/
inductive DecodeError where
  | reservedOpcode   -- opcode 0x0E..0xFF
  | reservedBit      -- a bit no field covers is 1
  | beginModeZero    -- BEGIN with MODE = 00
  | selReserved      -- RDREG with SEL 11..15
deriving DecidableEq, Repr

/-- A command as it stands on the command port (rule R80). -/
structure Command where
  cmd : CmdWord
  operand : Word
deriving DecidableEq, Repr

/-- The opcode field, cmd[7:0] (rule R81). -/
def opcodeOf (cmd : CmdWord) : BitVec 8 := cmd.extractLsb' 0 8

/-- The W bit of CFG: 0 selects 64-bit words, 1 selects 32-bit words (rule R83). -/
def Width.ofBit (b : BitVec 1) : Width := if b = 0 then .w64 else .w32

/-- The W bit that selects a width (rule R83). -/
def Width.bit : Width → BitVec 1
  | .w64 => 0
  | .w32 => 1

/-- The T bit of RDTBL and WRTBL (rule R87). -/
def Table.ofBit (b : BitVec 1) : Table := if b = 0 then .fcm else .dfcm

/-- The T bit that selects a table (rule R87); also the type bit of a header field (rule R94). -/
def Table.bit : Table → BitVec 1
  | .fcm => 0
  | .dfcm => 1

/-- `i` if the reserved bits are 0 (rules R81, R90). -/
def ifReservedZero (zero : Bool) (i : Instr) : Except DecodeError Instr :=
  if zero then .ok i else .error .reservedBit

/-- Format N's reserved bits, [31:8], are 0 (rule R82). -/
def reservedZeroN (cmd : CmdWord) : Bool := cmd.extractLsb' 8 24 == 0

/-- Format C's reserved bits, [15:9], [23:21] and [31:29], are 0 (rule R83). -/
def reservedZeroC (cmd : CmdWord) : Bool :=
  cmd.extractLsb' 9 7 == 0 && cmd.extractLsb' 21 3 == 0 && cmd.extractLsb' 29 3 == 0

/-- Format B's reserved bits, [11:10] and [31:13], are 0 (rule R85). -/
def reservedZeroB (cmd : CmdWord) : Bool := cmd.extractLsb' 10 2 == 0 && cmd.extractLsb' 13 19 == 0

/-- Format S's reserved bits, [31:12], are 0 (rule R86). Formats H and T have none (rules R84, R87). -/
def reservedZeroS (cmd : CmdWord) : Bool := cmd.extractLsb' 12 20 == 0

/-- BEGIN's term, unless MODE is the reserved value 00 (rules R85, R90). -/
def decodeBegin (cmd : CmdWord) : Except DecodeError Instr :=
  let mode : BitVec 2 := cmd.extractLsb' 8 2
  let k : BitVec 1 := cmd.extractLsb' 12 1
  if beginModeLegal mode then ifReservedZero (reservedZeroB cmd) (.beginCall mode (k == 1))
  else .error .beginModeZero

/-- RDREG's term, unless SEL is reserved (rules R86, R90). -/
def decodeRdreg (cmd : CmdWord) : Except DecodeError Instr :=
  let sel : BitVec 4 := cmd.extractLsb' 8 4
  if selLegal sel then ifReservedZero (reservedZeroS cmd) (.rdreg sel)
  else .error .selReserved

/-- The command a word stands for (rules R81-R90). -/
def decode (c : Command) : Except DecodeError Instr :=
  let cmd := c.cmd
  match (opcodeOf cmd).toNat with
  | 0x00 => ifReservedZero (reservedZeroN cmd) .nop
  | 0x01 => ifReservedZero (reservedZeroC cmd)
      (.cfg (.ofBit (cmd.extractLsb' 8 1)) (cmd.extractLsb' 16 5) (cmd.extractLsb' 24 5))
  | 0x02 => .ok (.hargs (cmd.extractLsb' 8 6) (cmd.extractLsb' 14 6) (cmd.extractLsb' 20 6)
      (cmd.extractLsb' 26 6))
  | 0x03 => ifReservedZero (reservedZeroN cmd) (.seed c.operand)
  | 0x04 => ifReservedZero (reservedZeroN cmd) .defaults
  | 0x05 => ifReservedZero (reservedZeroN cmd) .clear
  | 0x06 => decodeBegin cmd
  | 0x07 => ifReservedZero (reservedZeroN cmd) (.encv c.operand)
  | 0x08 => ifReservedZero (reservedZeroN cmd) .decv
  | 0x09 => ifReservedZero (reservedZeroN cmd) .endCall
  | 0x0A => decodeRdreg cmd
  | 0x0B => .ok (.rdtbl (.ofBit (cmd.extractLsb' 8 1)) (cmd.extractLsb' 9 23))
  | 0x0C => .ok (.wrtbl (.ofBit (cmd.extractLsb' 8 1)) (cmd.extractLsb' 9 23) c.operand)
  | 0x0D => ifReservedZero (reservedZeroN cmd) .errclr
  | _ => .error .reservedOpcode

/-- The command word of a command: each field at the bit its format table gives it (rules R82-R87), reserved
bits 0. -/
def encodeWord : Instr → CmdWord
  | .nop => 0x00000000
  | .cfg w flog2 dlog2 =>
    BitVec.ofNat 32 (0x01 + w.bit.toNat * 2 ^ 8 + flog2.toNat * 2 ^ 16 + dlog2.toNat * 2 ^ 24)
  | .hargs lf rf ld rd =>
    BitVec.ofNat 32 (0x02 + lf.toNat * 2 ^ 8 + rf.toNat * 2 ^ 14 + ld.toNat * 2 ^ 20 + rd.toNat * 2 ^ 26)
  | .seed _ => 0x00000003
  | .defaults => 0x00000004
  | .clear => 0x00000005
  | .beginCall mode k => BitVec.ofNat 32 (0x06 + mode.toNat * 2 ^ 8 + k.toNat * 2 ^ 12)
  | .encv _ => 0x00000007
  | .decv => 0x00000008
  | .endCall => 0x00000009
  | .rdreg sel => BitVec.ofNat 32 (0x0A + sel.toNat * 2 ^ 8)
  | .rdtbl t idx => BitVec.ofNat 32 (0x0B + t.bit.toNat * 2 ^ 8 + idx.toNat * 2 ^ 9)
  | .wrtbl t idx _ => BitVec.ofNat 32 (0x0C + t.bit.toNat * 2 ^ 8 + idx.toNat * 2 ^ 9)
  | .errclr => 0x0000000D

/-- The operand a command is presented with: its own where it reads one, else 0 (rule R88 accepts
any value there). -/
def encodeOperand : Instr → Word
  | .nop => 0
  | .cfg _ _ _ => 0
  | .hargs _ _ _ _ => 0
  | .seed operand => operand
  | .defaults => 0
  | .clear => 0
  | .beginCall _ _ => 0
  | .encv operand => operand
  | .decv => 0
  | .endCall => 0
  | .rdreg _ => 0
  | .rdtbl _ _ => 0
  | .wrtbl _ _ operand => operand
  | .errclr => 0

/-- The words of a command: what the host presents on the command port for it (rule R80). -/
def encode (i : Instr) : Command := ⟨encodeWord i, encodeOperand i⟩

/-- The command whose bits are the low `nbits` of `w`: bits 31..0 are the command word and bits 95..32
the operand (log entry 10); bits at or above `nbits` are 0. -/
def commandOfBits (nbits w : Nat) : Command :=
  ⟨BitVec.ofNat 32 (w % 2 ^ nbits), BitVec.ofNat 64 ((w % 2 ^ nbits) >>> 32)⟩

/-- The instruction the decoder reads from an instruction whose bits are `w`, numbered as the opcode
table numbers them; `none` where it refuses. -/
def decodeTableWord (nbits w : Nat) : Option Instr := (decode (commandOfBits nbits w)).toOption

end Sys2Proof
end

