-- ==== Sys2Proof/Machine/Registers.lean ====
section
/-! DEFINITION. The types of the named registers (`10_state.md`), the error causes and the default hash
arguments. -/

namespace Sys2Proof.Machine

/-- PARAMS (rule R40): the implementation parameters, integers 0..23 (rules R8, R9). -/
structure Params where
  maxLog2F : Fin 24
  maxLog2D : Fin 24
deriving DecidableEq, Repr

/-- CFG (rule R22). -/
structure Cfg where
  w : Width
  flog2 : BitVec 5
  dlog2 : BitVec 5
deriving DecidableEq, Repr

/-- HARGS (rule R24). -/
structure HashArgs where
  lf : BitVec 6
  rf : BitVec 6
  ld : BitVec 6
  rd : BitVec 6
deriving DecidableEq, Repr

/-- MODE (rule R33). -/
inductive Mode where
  | idle   -- 0: no call open
  | enc    -- 1: encode call
  | size   -- 2: size-only call
  | dec    -- 3: decode call
deriving DecidableEq, Repr

/-- The error causes (rule R220). -/
inductive Cause where
  | illegal    -- 1
  | seq        -- 2
  | cfgRange   -- 3
  | badIdx     -- 4
  | badHdr     -- 5
deriving DecidableEq, Repr

/-- A response (rule R80): `ok` is 1 for success, 0 for a failed or rejected command. -/
structure Response where
  ok : Bool
  data : Word
deriving DecidableEq, Repr

/-- The register value of a mode (rule R33). -/
def Mode.bits : Mode → BitVec 2
  | .idle => 0
  | .enc => 1
  | .size => 2
  | .dec => 3

/-- The mode a 2-bit register value names (rule R33). -/
def Mode.ofBits (b : BitVec 2) : Mode :=
  match b.toNat with
  | 1 => .enc
  | 2 => .size
  | 3 => .dec
  | _ => .idle

/-- The cause code that ERRCODE records (rule R220). -/
def Cause.code : Cause → BitVec 4
  | .illegal => 1
  | .seq => 2
  | .cfgRange => 3
  | .badIdx => 4
  | .badHdr => 5

/-- `W`, the word width in bits (rule R17). -/
def widthBits : Width → Nat
  | .w64 => 64
  | .w32 => 32

/-- `w`, the word size in bytes (rule R17). -/
def widthBytes : Width → Nat
  | .w64 => 8
  | .w32 => 4

/-- The default hash arguments of a width: the one named table of rule R11. The spec calls these four
pairs unaudited (log entry 9). -/
def defaultHashArgs : Width → HashArgs
  | .w64 => { lf := 6, rf := 48, ld := 2, rd := 40 }
  | .w32 => { lf := 1, rf := 22, ld := 4, rd := 23 }

end Sys2Proof.Machine
end

