-- ==== Sys2Proof/Machine/State.lean ====
section
/-! DEFINITION. The machine's state as plain data: every register, table and stream of `10_state.md`, the
command and response ports, and the machine right after hardware reset. -/

namespace Sys2Proof.Machine

/-- Why the machine stops. The spec's own errors (rule R220) are no faults: they are next states. -/
inductive Fault where
  /-- A table access at a slot number at or above the RAM's depth, a slot that does not exist (rule R60).
  Raised by ENCV, DECV, RDTBL and WRTBL. Safe: the spec's invariants rule it out (rules R44, R76; log
  entry 6). -/
  | absentSlot
deriving DecidableEq, Repr

/-- Why a command has no meaning. -/
inductive Refusal where
  /-- The command's meaning is not written. Raised by an arm of `exec` only; no arm raises it. Safe. -/
  | notModelled (mnemonic : String)
deriving DecidableEq, Repr

/-- The engine's state (rule R20), with its two ports. -/
structure State where
  /-- PARAMS, hardwired (rule R40). -/
  params : Params
  /-- CFG (rule R22). -/
  cfg : Cfg
  /-- HARGS (rule R24). -/
  hargs : HashArgs
  /-- SEED (rule R25). -/
  seed : Word
  /-- FCM_HASH (rule R29), in 23 bits (log entry 8). -/
  fcmHash : BitVec 23
  /-- DFCM_HASH (rule R30), in 23 bits (log entry 8). -/
  dfcmHash : BitVec 23
  /-- PRIOR (rule R31). -/
  prior : Word
  /-- MODE (rule R33). -/
  mode : Mode
  /-- HALF (rule R34). -/
  half : Bool
  /-- PEND (rule R34). -/
  pend : BitVec 4
  /-- VCOUNT (rule R35). -/
  vcount : Word
  /-- PCOUNT (rule R36). -/
  pcount : Word
  /-- HCOUNT (rule R37). -/
  hcount : Word
  /-- ERRV (rule R38). -/
  errv : Bool
  /-- ERRCODE (rule R38). -/
  errcode : BitVec 4
  /-- TF, the FCM table (rule R26). -/
  tf : Ram
  /-- TD, the DFCM table (rule R27). -/
  td : Ram
  /-- HDR_OUT, oldest byte first (rule R42); likewise the next three. -/
  hdrOut : List Byte
  /-- PAY_OUT. -/
  payOut : List Byte
  /-- HDR_IN. -/
  hdrIn : List Byte
  /-- PAY_IN. -/
  payIn : List Byte
  /-- The command port: commands presented and not yet completed, oldest first (rules R80, R252). -/
  cmds : List Command
  /-- The response port: responses given and not yet taken, oldest first (rule R80; log entry 7). -/
  resps : List Response
  /-- The model's own: how many unspecified table images have been drawn (rule R251; log entry 4). -/
  draws : Nat
deriving DecidableEq, Repr

/-- The machine after hardware reset (rule R250), for an implementation's parameters, its tables holding
the unspecified images `draws` and `draws + 1` (rule R251). -/
def State.resetWith (params : Params) (draws : Nat) : State where
  params := params
  cfg := { w := .w64, flog2 := 0, dlog2 := 0 }
  hargs := defaultHashArgs .w64
  seed := 0
  fcmHash := 0
  dfcmHash := 0
  prior := 0
  mode := .idle
  half := false
  pend := 0
  vcount := 0
  pcount := 0
  hcount := 0
  errv := false
  errcode := 0
  tf := Ram.unspecified draws
  td := Ram.unspecified (draws + 1)
  hdrOut := []
  payOut := []
  hdrIn := []
  payIn := []
  cmds := []
  resps := []
  draws := draws + 2

/-- The machine right after reset (rule R250). Its PARAMS are log entry 3. -/
def State.reset : State :=
  State.resetWith { maxLog2F := Config.maxLog2F, maxLog2D := Config.maxLog2D } 0

end Sys2Proof.Machine
end

