-- ==== Sys2Proof/Machine/Flags.lean ====
section
/-! DEFINITION. The engine has no flags; its status bits are ERRV, ERRCODE, MODE, HALF and PEND, and they
decide only whether a command is accepted (rule R41). The STATUS view and the acceptance matrix. -/

namespace Sys2Proof.Machine

/-- STATUS (rule R39): [11:8] ERRCODE, [7:4] PEND, [3] ERRV, [2] HALF, [1:0] MODE. -/
def State.status (s : State) : Word :=
  BitVec.ofNat 64 (s.errcode.toNat * 2 ^ 8 + s.pend.toNat * 2 ^ 4 + s.errv.toNat * 2 ^ 3 + s.half.toNat * 2 ^ 2
    + s.mode.bits.toNat)

/-- The commands accepted while halted (rule R226, last column). -/
def acceptedHalted : Instr → Bool
  | .nop => true
  | .cfg _ _ _ => false
  | .hargs _ _ _ _ => false
  | .seed _ => false
  | .defaults => false
  | .clear => false
  | .beginCall _ _ => false
  | .encv _ => false
  | .decv => false
  | .endCall => false
  | .rdreg _ => true
  | .rdtbl _ _ => false
  | .wrtbl _ _ _ => false
  | .errclr => true

/-- The opcodes of the commands accepted while halted: NOP, RDREG, ERRCLR (rule R227, check 1). -/
def opcodeAcceptedHalted (opcode : BitVec 8) : Bool := opcode == 0x00 || opcode == 0x0A || opcode == 0x0D

/-- The modes that accept a command (rule R226, the mode columns). -/
def acceptedIn : Instr → Mode → Bool
  | .nop, _ => true
  | .cfg _ _ _, m => m == .idle
  | .hargs _ _ _ _, m => m == .idle
  | .seed _, m => m == .idle
  | .defaults, m => m == .idle
  | .clear, m => m == .idle
  | .beginCall _ _, m => m == .idle
  | .encv _, m => m == .enc || m == .size
  | .decv, m => m == .dec
  | .endCall, m => m != .idle
  | .rdreg _, _ => true
  | .rdtbl _ _, m => m == .idle
  | .wrtbl _ _ _, m => m == .idle
  | .errclr, _ => true

end Sys2Proof.Machine
end

