-- ==== Sys2Proof/Machine/Ops.lean ====
section
/-! DEFINITION. The named operations every meaning is built from: the next command, the response, error entry
and the way back from it, the order of checks, table access, the stream primitives of rule R15. -/

namespace Sys2Proof.Machine

/-- The outcome of a step of this machine. -/
abbrev Result := Host.Outcome State Fault Refusal

/-- The command at the head of the command port (rules R67, R252). -/
def State.nextCommand (s : State) : Option Command := s.cmds.head?

/-- The command completes with its one response (rule R80): it leaves the command port and the response
joins the response port. -/
def State.complete (s : State) (ok : Bool) (data : Word) : State :=
  { s with cmds := s.cmds.tail, resps := s.resps ++ [{ ok := ok, data := data }] }

/-- `respond(data)` of rule R15. -/
def State.respond (s : State) (data : Word) : State := s.complete true data

/-- A command rejected while halted: ok = 0, data = 0, and nothing else changes (rule R232). -/
def State.reject (s : State) : State := s.complete false 0

/-- `raise Error(code)`, the engine's error entry (rule R231): the first error is recorded, a later one keeps
the first code, and nothing else changes (rule R230). -/
def State.raise (s : State) (cause : Cause) : State :=
  ({ s with errv := true, errcode := if s.errv then s.errcode else cause.code } : State).complete false 0

/-- The way out of the halted state (rules R184, R233): the error status is cleared and an open call
abandoned. -/
def State.clearError (s : State) : State :=
  { s with errv := false, errcode := 0, mode := .idle, half := false, pend := 0 }

/-- The checks that come before every command's own rule, in the order of rule R227: the halted gate, ILLEGAL,
SEQ. `run` is what the command does when it is accepted. -/
def checked (i : Instr) (s : State) (run : Result) : Result :=
  if s.errv && !acceptedHalted i then .next s.reject
  else if !i.wellFormed then .next (s.raise .illegal)
  else if !acceptedIn i s.mode then .next (s.raise .seq)
  else run

/-- A command word that decodes to no command (rule R221), after the halted gate (rule R227). -/
def State.illegalWord (s : State) (cmd : CmdWord) : State :=
  if s.errv && !opcodeAcceptedHalted (opcodeOf cmd) then s.reject else s.raise .illegal

/-- MAX_LOG2 of a table (rules R8, R9). -/
def State.physLog2 (s : State) : Table → Nat
  | .fcm => s.params.maxLog2F.val
  | .dfcm => s.params.maxLog2D.val

/-- The configured size exponent of a table (rule R17). -/
def State.sizeLog2 (s : State) : Table → Nat
  | .fcm => s.cfg.flog2.toNat
  | .dfcm => s.cfg.dlog2.toNat

/-- The RAM of a table. -/
def State.ram (s : State) : Table → Ram
  | .fcm => s.tf
  | .dfcm => s.td

/-- The cursor of a table (rules R29, R30). -/
def State.cursor (s : State) : Table → Nat
  | .fcm => s.fcmHash.toNat
  | .dfcm => s.dfcmHash.toNat

/-- `MemRead` (rule R15). -/
def State.memRead (s : State) (t : Table) (i : Nat) : Word := (s.ram t).read i

/-- `MemWrite` (rule R15). -/
def State.memWrite (s : State) (t : Table) (i : Nat) (v : Word) : State :=
  match t with
  | .fcm => { s with tf := s.tf.write i v }
  | .dfcm => { s with td := s.td.write i v }

/-- Slot `i` of a table exists: `i` is below the RAM's depth (rules R26, R27, R60). -/
def State.slotExists (s : State) (t : Table) (i : Nat) : Bool := decide (i < 2 ^ s.physLog2 t)

/-- The slots the datapath is about to access exist (rule R61). -/
def State.cursorsExist (s : State) : Bool :=
  s.slotExists .fcm (s.cursor .fcm) && s.slotExists .dfcm (s.cursor .dfcm)

/-- `run`, where the slots it accesses exist (log entry 6). -/
def whereSlots (ok : Bool) (run : Result) : Result := if ok then run else .fault .absentSlot

/-- CLEAR's effect on the tables: every physical slot zero (rule R135). -/
def State.clearTables (s : State) : State := { s with tf := Ram.cleared, td := Ram.cleared }

/-- `HdrPut` (rule R15). -/
def State.hdrPut (s : State) (b : Byte) : State := { s with hdrOut := s.hdrOut ++ [b] }

/-- `PayPut` of each byte in order (rule R15). -/
def State.payPut (s : State) (bytes : List Byte) : State := { s with payOut := s.payOut ++ bytes }

/-- `HdrDrop` (rule R15). -/
def State.hdrDrop (s : State) : State := { s with hdrIn := s.hdrIn.drop 1 }

/-- `PayPeek` (rule R15). -/
def State.payPeek (s : State) (k : Nat) : List Byte := s.payIn.take k

/-- `PayDrop` (rule R15). -/
def State.payDrop (s : State) (k : Nat) : State := { s with payIn := s.payIn.drop k }

/-- The cursors and PRIOR at the start of a predictor run at width `w`: 0, 0 and SEED mod 2^W (CFG, rule R130;
BEGIN with K = 0, rule R150). -/
def State.restartPredictor (s : State) (w : Width) : State :=
  { s with
    fcmHash := 0
    dfcmHash := 0
    prior := BitVec.ofNat 64 (s.seed.toNat % 2 ^ widthBits w) }

end Sys2Proof.Machine
end

