-- ==== Sys2Proof/Machine/Operands.lean ====
section
/-! DEFINITION. Operand forms: the value operand of ENCV (rule R151), the size test of an index (rules R182,
R183), the register views of RDREG (rule R181). -/

namespace Sys2Proof.Machine

/-- `operand mod 2^W` (rule R151): at W = 32 the upper half is ignored. -/
def State.valueOperand (s : State) (operand : Word) : Nat := operand.toNat % 2 ^ widthBits s.cfg.w

/-- IDX is below the configured size of its table (rules R182, R183, R224). -/
def State.indexInSize (s : State) (t : Table) (idx : BitVec 23) : Bool :=
  decide (idx.toNat < 2 ^ s.sizeLog2 t)

/-- Both exponents are within the RAM depths (rules R130, R223). -/
def State.cfgInRange (s : State) (flog2 dlog2 : BitVec 5) : Bool :=
  decide (flog2.toNat ≤ s.params.maxLog2F.val) && decide (dlog2.toNat ≤ s.params.maxLog2D.val)

/-- The eleven registers RDREG selects, in the order of SEL 0..10 (rules R92, R181). -/
inductive Reg where
  | status | cfg | hargs | seed | fcmhash | dfcmhash | prior | vcount | pcount | hcount | params
deriving DecidableEq, Repr

/-- The register a SEL field names; SEL 11..15 are reserved (rule R86). -/
def Reg.ofSel (sel : BitVec 4) : Option Reg :=
  match sel.toNat with
  | 0 => some .status
  | 1 => some .cfg
  | 2 => some .hargs
  | 3 => some .seed
  | 4 => some .fcmhash
  | 5 => some .dfcmhash
  | 6 => some .prior
  | 7 => some .vcount
  | 8 => some .pcount
  | 9 => some .hcount
  | 10 => some .params
  | _ => none

/-- The CFG view (rule R22): [28:24] DLOG2, [20:16] FLOG2, [8] W. -/
def cfgView (c : Cfg) : Word :=
  BitVec.ofNat 64 (c.dlog2.toNat * 2 ^ 24 + c.flog2.toNat * 2 ^ 16 + c.w.bit.toNat * 2 ^ 8)

/-- The HARGS view (rule R24): [31:26] RD, [25:20] LD, [19:14] RF, [13:8] LF. -/
def hargsView (h : HashArgs) : Word :=
  BitVec.ofNat 64 (h.rd.toNat * 2 ^ 26 + h.ld.toNat * 2 ^ 20 + h.rf.toNat * 2 ^ 14 + h.lf.toNat * 2 ^ 8)

/-- The PARAMS view (rule R40): [12:8] MAX_LOG2_D, [4:0] MAX_LOG2_F. -/
def paramsView (p : Params) : Word := BitVec.ofNat 64 (p.maxLog2D.val * 2 ^ 8 + p.maxLog2F.val)

/-- `View(SEL)`, zero-extended to 64 bits (rule R181). -/
def State.view (s : State) : Reg → Word
  | .status => s.status
  | .cfg => cfgView s.cfg
  | .hargs => hargsView s.hargs
  | .seed => s.seed
  | .fcmhash => s.fcmHash.setWidth 64
  | .dfcmhash => s.dfcmHash.setWidth 64
  | .prior => s.prior
  | .vcount => s.vcount
  | .pcount => s.pcount
  | .hcount => s.hcount
  | .params => paramsView s.params

end Sys2Proof.Machine
end

