-- ==== Sys2Proof/Machine/Access.lean ====
section
/-! DEFINITION. The access and control commands NOP, RDREG, RDTBL, WRTBL and ERRCLR (`43_access.md`). -/

namespace Sys2Proof.Machine

/-- NOP (rule R180). -/
def execNop (s : State) : Result := checked .nop s <| .next (s.respond 0)

/-- RDREG (rule R181): no side effect. A reserved SEL is ILLEGAL. -/
def execRdreg (sel : BitVec 4) (s : State) : Result :=
  checked (.rdreg sel) s <| .next <|
    match Reg.ofSel sel with
    | some r => s.respond (s.view r)
    | none => s.raise .illegal

/-- RDTBL (rule R182): all 64 bits, whatever W is. -/
def execRdtbl (t : Table) (idx : BitVec 23) (s : State) : Result :=
  checked (.rdtbl t idx) s <|
    if s.indexInSize t idx then
      whereSlots (s.slotExists t idx.toNat) <| .next (s.respond (s.memRead t idx.toNat))
    else .next (s.raise .badIdx)

/-- WRTBL (rule R183): all 64 bits, whatever W is. -/
def execWrtbl (t : Table) (idx : BitVec 23) (operand : Word) (s : State) : Result :=
  checked (.wrtbl t idx operand) s <|
    if s.indexInSize t idx then
      whereSlots (s.slotExists t idx.toNat) <| .next ((s.memWrite t idx.toNat operand).respond 0)
    else .next (s.raise .badIdx)

/-- ERRCLR (rule R184): the error status is cleared and an open call abandoned, with or without an error. -/
def execErrclr (s : State) : Result := checked .errclr s <| .next (s.clearError.respond 0)

end Sys2Proof.Machine
end

