-- ==== Sys2Proof/Machine/Context.lean ====
section
/-! DEFINITION. The context commands CFG, HARGS, SEED, DEFAULTS and CLEAR (`41_context.md`). -/

namespace Sys2Proof.Machine

/-- CFG's effect: the new configuration, and the cursors and PRIOR restarted at the new width (rule R130). -/
def State.configure (s : State) (w : Width) (flog2 dlog2 : BitVec 5) : State :=
  ({ s with cfg := { w := w, flog2 := flog2, dlog2 := dlog2 } } : State).restartPredictor w

/-- CFG (rule R130). -/
def execCfg (w : Width) (flog2 dlog2 : BitVec 5) (s : State) : Result :=
  checked (.cfg w flog2 dlog2) s <| .next <|
    if s.cfgInRange flog2 dlog2 then (s.configure w flog2 dlog2).respond 0
    else s.raise .cfgRange

/-- HARGS (rule R132). -/
def execHargs (lf rf ld rd : BitVec 6) (s : State) : Result :=
  checked (.hargs lf rf ld rd) s <| .next <|
    ({ s with hargs := { lf := lf, rf := rf, ld := ld, rd := rd } } : State).respond 0

/-- SEED (rule R133): PRIOR does not change. -/
def execSeed (operand : Word) (s : State) : Result :=
  checked (.seed operand) s <| .next <| ({ s with seed := operand } : State).respond 0

/-- DEFAULTS (rule R134): the defaults of the width configured now, and a zero seed. -/
def execDefaults (s : State) : Result :=
  checked .defaults s <| .next <|
    ({ s with hargs := defaultHashArgs s.cfg.w, seed := 0 } : State).respond 0

/-- CLEAR (rule R135). -/
def execClear (s : State) : Result :=
  checked .clear s <| .next <| s.clearTables.respond 0

end Sys2Proof.Machine
end

