-- ==== Sys2Proof/Machine/Predictor.lean ====
section
/-! DEFINITION. The predictor, residual and leading-zero-byte datapath (`40_predictor.md`) and the stream data
encoding it serves (`30_encoding.md`, Part 2). Arithmetic is on mathematical integers, reduced where the rule
says so (rule R14). -/

namespace Sys2Proof.Machine

/-- `PredF()` (rule R110). -/
def State.predF (s : State) : Nat :=
  (s.memRead .fcm (s.cursor .fcm)).toNat % 2 ^ widthBits s.cfg.w

/-- `PredD()` (rule R111). -/
def State.predD (s : State) : Nat :=
  ((s.memRead .dfcm (s.cursor .dfcm)).toNat % 2 ^ widthBits s.cfg.w + s.prior.toNat) % 2 ^ widthBits s.cfg.w

/-- The prediction of a predictor. -/
def State.pred (s : State) : Table → Nat
  | .fcm => s.predF
  | .dfcm => s.predD

/-- The residual of `v` against a prediction (rule R112). -/
def xorResidual (v prediction : Nat) : Nat := v ^^^ prediction

/-- `delta(v)` (rule R113). -/
def State.delta (s : State) (v : Nat) : Nat :=
  (((v : Int) - (s.prior.toNat : Int)) % (2 ^ widthBits s.cfg.w : Int)).toNat

/-- `Hash(h, x, L, R, S)` (rule R114). -/
def tableHash (h x l r size : Nat) : Nat := ((h <<< l) ^^^ (x >>> r)) % 2 ^ size

/-- The FCM cursor after the value `v` (rule R115). -/
def State.nextFcmHash (s : State) (v : Nat) : Nat :=
  tableHash s.fcmHash.toNat v s.hargs.lf.toNat s.hargs.rf.toNat s.cfg.flog2.toNat

/-- The DFCM cursor after the delta `d` (rule R115). -/
def State.nextDfcmHash (s : State) (d : Nat) : Nat :=
  tableHash s.dfcmHash.toNat d s.hargs.ld.toNat s.hargs.rd.toNat s.cfg.dlog2.toNat

/-- `Advance(v)` (rule R116): every right-hand side reads the old state. -/
def State.advance (s : State) (v : Nat) : State :=
  { s with
    tf := s.tf.write s.fcmHash.toNat (BitVec.ofNat 64 v)
    fcmHash := BitVec.ofNat 23 (s.nextFcmHash v)
    td := s.td.write s.dfcmHash.toNat (BitVec.ofNat 64 (s.delta v))
    dfcmHash := BitVec.ofNat 23 (s.nextDfcmHash (s.delta v))
    prior := BitVec.ofNat 64 v }

/-- Predictor selection (rule R117): DFCM only when its residual is strictly smaller. -/
def selectPredictor (rF rD : Nat) : Table := if rF > rD then .dfcm else .fcm

/-- The selected residual (rule R118). -/
def selectResidual (rF rD : Nat) : Nat :=
  match selectPredictor rF rD with
  | .dfcm => rD
  | .fcm => rF

/-- The largest `k` in 0..`n` with `r < 2^(bits - 8k)`, 0 if there is none. -/
def lzbcUpTo (bits r : Nat) : Nat → Nat
  | 0 => 0
  | n + 1 => if r < 2 ^ (bits - 8 * (n + 1)) then n + 1 else lzbcUpTo bits r n

/-- `Lzbc(r)` (rule R119). -/
def lzbc (w : Width) (r : Nat) : Nat := lzbcUpTo (widthBits w) r (widthBytes w)

/-- `Code(lz)` (rule R120): the compaction of rule R95 at W = 64, lz itself at W = 32 (rule R98). -/
def lzCode : Width → Nat → Nat
  | .w64, lz =>
    let lz := if lz = 4 then 3 else lz
    if lz > 4 then lz - 1 else lz
  | .w32, lz => lz

/-- `LzDec(c)` (rule R121): the expansion of rule R96 at W = 64, c itself at W = 32. -/
def lzDec : Width → Nat → Nat
  | .w64, c => c + (if c ≥ 4 then 1 else 0)
  | .w32, c => c

/-- `PayLen(c)` (rules R99, R122). -/
def payLen (w : Width) (c : Nat) : Nat := widthBytes w - lzDec w c

/-- The header field of a type and a code (rule R94). -/
def headerField (t : Table) (code : Nat) : BitVec 4 := t.bit ++ BitVec.ofNat 3 code

/-- A header field's type, bit 3 (rule R94). -/
def fieldType (field : BitVec 4) : Table := .ofBit (field.extractLsb' 3 1)

/-- A header field's code, bits 2..0 (rule R94). -/
def fieldCode (field : BitVec 4) : Nat := (field.extractLsb' 0 3).toNat

/-- A field whose code has no meaning at the width: 5, 6 or 7 at W = 32 (rules R98, R225). -/
def badField (w : Width) (field : BitVec 4) : Bool :=
  match w with
  | .w64 => false
  | .w32 => decide (fieldCode field > 4)

/-- The header byte of two fields, the first value's in the low nibble (rule R97). -/
def headerByte (first second : BitVec 4) : Byte := second ++ first

/-- The low nibble of a header byte (rules R97, R153). -/
def lowField (b : Byte) : BitVec 4 := b.extractLsb' 0 4

/-- The high nibble of a header byte (rules R97, R155). -/
def highField (b : Byte) : BitVec 4 := b.extractLsb' 4 4

/-- `Serialize(r, k)` (rules R123, R62): the k low-order bytes, most significant first. -/
def serialize (r : Nat) : Nat → List Byte
  | 0 => []
  | k + 1 => BitVec.ofNat 8 (r >>> (8 * k)) :: serialize r k

/-- `Deserialize` (rule R124): the big-endian value of the bytes. -/
def deserialize (bytes : List Byte) : Nat := bytes.foldl (fun acc b => acc * 256 + b.toNat) 0

/-- What `EncodeValue` returns (rule R125). -/
structure Encoded where
  field : BitVec 4
  k : Nat
  bytes : List Byte
deriving DecidableEq, Repr

/-- `EncodeValue(v)` (rule R125). -/
def State.encodeValue (s : State) (v : Nat) : Encoded :=
  let rF := xorResidual v s.predF
  let rD := xorResidual v s.predD
  let r := selectResidual rF rD
  let c := lzCode s.cfg.w (lzbc s.cfg.w r)
  let k := payLen s.cfg.w c
  { field := headerField (selectPredictor rF rD) c, k := k, bytes := serialize r k }

/-- `DecodeValue(field, bytes)` (rule R126). -/
def State.decodeValue (s : State) (field : BitVec 4) (bytes : List Byte) : Nat :=
  xorResidual (deserialize bytes) (s.pred (fieldType field))

end Sys2Proof.Machine
end

