-- ==== Sys2Proof/Machine/Stream.lean ====
section
/-! DEFINITION. The call and stream commands BEGIN, ENCV, DECV and END (`42_stream.md`). -/

namespace Sys2Proof.Machine

/-- A call opens: the mode is set, the packer and the counters restart (rule R150). -/
def State.openCall (s : State) (mode : Mode) : State :=
  { s with mode := mode, half := false, pend := 0, vcount := 0, pcount := 0, hcount := 0 }

/-- BEGIN (rule R150): with K = 0 the cursors and PRIOR restart too. -/
def execBegin (mode : BitVec 2) (k : Bool) (s : State) : Result :=
  checked (.beginCall mode k) s <| .next <|
    let opened := s.openCall (.ofBits mode)
    (if k then opened else opened.restartPredictor s.cfg.w).respond 0

/-- `PackEnc(field)` (rule R152). -/
def State.packEnc (s : State) (field : BitVec 4) : State :=
  if s.half then
    let t := if s.mode = .enc then s.hdrPut (headerByte s.pend field) else s
    { t with hcount := s.hcount + 1, half := false, pend := 0 }
  else { s with pend := field, half := true }

/-- One more value, with `k` payload bytes (rules R35, R36). -/
def State.countValue (s : State) (k : Nat) : State :=
  { s with vcount := s.vcount + 1, pcount := s.pcount + BitVec.ofNat 64 k }

/-- ENCV's response data: [11:8] the header field, [7:0] the payload length (rules R91, R151). -/
def encvData (e : Encoded) : Word := BitVec.ofNat 64 (e.field.toNat * 2 ^ 8 + e.k)

/-- The payload bytes leave in ENC mode only (rule R151). -/
def State.emitPayload (s : State) (bytes : List Byte) : State :=
  if s.mode = .enc then s.payPut bytes else s

/-- ENCV's effect on an accepted value (rule R151). -/
def State.encodeStep (s : State) (v : Nat) : State :=
  let e := s.encodeValue v
  ((((s.advance v).packEnc e.field).emitPayload e.bytes).countValue e.k).respond (encvData e)

/-- ENCV (rule R151). -/
def execEncv (operand : Word) (s : State) : Result :=
  checked (.encv operand) s <|
    whereSlots s.cursorsExist <| .next (s.encodeStep (s.valueOperand operand))

/-- The header field DECV uses, with the header byte it is taken from when HALF = 0 (rule R153);
none while HALF = 0 and HDR_IN is empty (rule R156). -/
def State.headerSource (s : State) : Option (BitVec 4 × Option Byte) :=
  if s.half then some (s.pend, none)
  else
    match s.hdrIn with
    | [] => none
    | b :: _ => some (lowField b, some b)

/-- `UnpackDec(take, b)` (rule R155): `some b` when the low nibble of the fresh byte b was used. -/
def State.unpackDec (s : State) (source : Option Byte) : State :=
  match source with
  | some b => { s.hdrDrop with hcount := s.hcount + 1, half := true, pend := highField b }
  | none => { s with half := false, pend := 0 }

/-- DECV's effect once its field and its payload bytes are there (rule R153). -/
def State.decodeStep (s : State) (field : BitVec 4) (source : Option Byte) : State :=
  let k := payLen s.cfg.w (fieldCode field)
  let v := s.decodeValue field (s.payPeek k)
  ((((s.payDrop k).unpackDec source).advance v).countValue k).respond (BitVec.ofNat 64 v)

/-- DECV (rule R153). While its header byte or its payload bytes are missing it waits: nothing changes, and
the command stays at the head of the command port (rule R156). -/
def execDecv (s : State) : Result :=
  checked .decv s <|
    match s.headerSource with
    | none => .next s
    | some (field, source) =>
      if badField s.cfg.w field then .next (s.raise .badHdr)
      else if s.payIn.length < payLen s.cfg.w (fieldCode field) then .next s
      else whereSlots s.cursorsExist <| .next (s.decodeStep field source)

/-- The odd last header field leaves (ENC), is counted (ENC, SIZE) or is dropped (DEC) (rule R154). -/
def State.flushHeader (s : State) : State :=
  if s.half then
    let t := if s.mode = .enc then s.hdrPut (headerByte s.pend 0) else s
    if s.mode = .enc ∨ s.mode = .size then { t with hcount := s.hcount + 1 } else t
  else s

/-- The call closes (rule R154). -/
def State.closeCall (s : State) : State := { s with mode := .idle, half := false, pend := 0 }

/-- END (rule R154). -/
def execEnd (s : State) : Result :=
  checked .endCall s <| .next <| s.flushHeader.closeCall.respond s.pcount

end Sys2Proof.Machine
end

