-- ==== Sys2Proof/Machine/Dispatch.lean ====
section
/-! DEFINITION. One arm per command: the meaning of each row of the opcode map (rule R89). -/

namespace Sys2Proof.Machine

def exec (i : Instr) (s : State) : Host.Outcome State Fault Refusal :=
  match i with
  | .nop => Sys2Proof.Machine.execNop s
  | .cfg w flog2 dlog2 => Sys2Proof.Machine.execCfg w flog2 dlog2 s
  | .hargs lf rf ld rd => Sys2Proof.Machine.execHargs lf rf ld rd s
  | .seed operand => Sys2Proof.Machine.execSeed operand s
  | .defaults => Sys2Proof.Machine.execDefaults s
  | .clear => Sys2Proof.Machine.execClear s
  | .beginCall mode k => Sys2Proof.Machine.execBegin mode k s
  | .encv operand => Sys2Proof.Machine.execEncv operand s
  | .decv => Sys2Proof.Machine.execDecv s
  | .endCall => Sys2Proof.Machine.execEnd s
  | .rdreg sel => Sys2Proof.Machine.execRdreg sel s
  | .rdtbl t idx => Sys2Proof.Machine.execRdtbl t idx s
  | .wrtbl t idx operand => Sys2Proof.Machine.execWrtbl t idx operand s
  | .errclr => Sys2Proof.Machine.execErrclr s

end Sys2Proof.Machine
end

