-- ==== Sys2Proof/Machine/Step.lean ====
section
/-! DEFINITION. One step of the engine (rule R252): the oldest command on the command port is decoded and run. -/

namespace Sys2Proof.Machine

/-- One step of the engine. With no command presented the engine waits, and nothing changes (log entry 1);
a word that decodes to no command raises ILLEGAL or is rejected (rules R221, R227). -/
def step (s : State) : Host.Outcome State Fault Refusal :=
  match s.nextCommand with
  | none => .next s
  | some c =>
    match decode c with
    | .ok i => exec i s
    | .error _ => .next (s.illegalWord c.cmd)

/-- `s` with the instruction whose bits are the low `nbits` of `w` at the head of the command port, where the
next step takes it (log entry 11). -/
def State.withFetchWord (s : State) (nbits w : Nat) : State :=
  { s with cmds := commandOfBits nbits w :: s.cmds }

end Sys2Proof.Machine
end

