-- ==== Sys2Proof/Machine/Environment.lean ====
section
/-! DEFINITION. What the host can do to the engine between steps (rules R42, R252) and hardware reset (rule
R253). None of it is a step of the engine. -/

namespace Sys2Proof.Machine

/-- An action of the host, or the reset input (rules R252, R253). -/
inductive HostAction where
  | present (c : Command)     -- present the next command
  | takeResponse              -- take the oldest response
  | appendHdrIn (b : Byte)    -- append a byte to HDR_IN
  | appendPayIn (b : Byte)    -- append a byte to PAY_IN
  | drainHdrOut               -- remove the oldest byte of HDR_OUT
  | drainPayOut               -- remove the oldest byte of PAY_OUT
  | hardwareReset             -- apply hardware reset
deriving DecidableEq, Repr

/-- Hardware reset at any time (rule R253): the state of rule R250 with PARAMS as wired, fresh unspecified
tables, the streams and the queued commands discarded. Responses already given stay given (log entry 7). -/
def State.hardwareReset (s : State) : State :=
  { State.resetWith s.params s.draws with resps := s.resps }

/-- The state after an action of the host (rules R42, R68, R252, R253). -/
def State.host (s : State) : HostAction → State
  | .present c => { s with cmds := s.cmds ++ [c] }
  | .takeResponse => { s with resps := s.resps.drop 1 }
  | .appendHdrIn b => { s with hdrIn := s.hdrIn ++ [b] }
  | .appendPayIn b => { s with payIn := s.payIn ++ [b] }
  | .drainHdrOut => { s with hdrOut := s.hdrOut.drop 1 }
  | .drainPayOut => { s with payOut := s.payOut.drop 1 }
  | .hardwareReset => s.hardwareReset

end Sys2Proof.Machine
end

