-- ==== Sys2Proof/Safety.lean ====
section
/-! DEFINITION. The terms the statements use: the invariants of rule R44, the wait of rule R156, the
synchronisation set of rule R43, runs of commands, and the states engine and host can reach. -/

namespace Sys2Proof.Machine

/-- The invariants every command preserves, as the model needs them: rule R44's six, with the legal values of CFG
(rule R22), the cause codes in use (rule R220), and the tables' canonical form (log entry 5). -/
structure State.Inv (s : State) : Prop where
  flog2_le : s.cfg.flog2.toNat ≤ s.params.maxLog2F.val
  dlog2_le : s.cfg.dlog2.toNat ≤ s.params.maxLog2D.val
  fcmHash_lt : s.fcmHash.toNat < 2 ^ s.cfg.flog2.toNat
  dfcmHash_lt : s.dfcmHash.toNat < 2 ^ s.cfg.dlog2.toNat
  prior_lt : s.prior.toNat < 2 ^ widthBits s.cfg.w
  pend_zero : s.half = false → s.pend = 0
  half_zero : s.mode = .idle → s.half = false
  errv_iff : s.errv = false ↔ s.errcode = 0
  errcode_le : s.errcode.toNat ≤ 5
  tf_wf : s.tf.wf (2 ^ s.params.maxLog2F.val)
  td_wf : s.td.wf (2 ^ s.params.maxLog2D.val)

/-- Rule R44's six invariants, word for word. -/
structure State.SixInvariants (s : State) : Prop where
  fcmHash_lt : s.fcmHash.toNat < 2 ^ s.cfg.flog2.toNat
  dfcmHash_lt : s.dfcmHash.toNat < 2 ^ s.cfg.dlog2.toNat
  prior_lt : s.prior.toNat < 2 ^ widthBits s.cfg.w
  pend_zero : s.half = false → s.pend = 0
  half_zero : s.mode = .idle → s.half = false
  errv_iff : s.errv = false ↔ s.errcode = 0

/-- A DECV would wait: its header byte is missing, or its field is usable and its payload bytes are missing
(rule R156). -/
def State.inputMissing (s : State) : Prop :=
  match s.headerSource with
  | none => True
  | some (field, _) =>
    badField s.cfg.w field = false ∧ s.payIn.length < payLen s.cfg.w (fieldCode field)

/-- The engine has no step: no command is presented, or the oldest one is a DECV, accepted, whose bytes are
missing (rules R66, R156, R252). -/
def State.Waiting (s : State) : Prop :=
  s.cmds = [] ∨
    ∃ c rest, s.cmds = c :: rest ∧ decode c = .ok .decv ∧ s.errv = false ∧ s.mode = .dec ∧ s.inputMissing

/-- Two engines hold equal synchronisation sets (rule R43): CFG, HARGS, cursors, PRIOR, and every slot below
the configured sizes. -/
structure State.SyncEq (s t : State) : Prop where
  cfg : s.cfg = t.cfg
  hargs : s.hargs = t.hargs
  fcmHash : s.fcmHash = t.fcmHash
  dfcmHash : s.dfcmHash = t.dfcmHash
  prior : s.prior = t.prior
  tf : ∀ i, i < 2 ^ s.cfg.flog2.toNat → s.tf.read i = t.tf.read i
  td : ∀ i, i < 2 ^ s.cfg.dlog2.toNat → s.td.read i = t.td.read i

/-- The illegal command words of rule R90, bit by bit from the format tables (rules R82-R87, R89). -/
def IllegalWord (cmd : CmdWord) : Prop :=
  let opcode := (cmd.extractLsb' 0 8).toNat
  opcode ≥ 0x0E ∨
  (opcode ∈ [0x00, 0x03, 0x04, 0x05, 0x07, 0x08, 0x09, 0x0D] ∧ cmd.extractLsb' 8 24 ≠ 0) ∨
  (opcode = 0x01 ∧
    (cmd.extractLsb' 9 7 ≠ 0 ∨ cmd.extractLsb' 21 3 ≠ 0 ∨ cmd.extractLsb' 29 3 ≠ 0)) ∨
  (opcode = 0x06 ∧
    (cmd.extractLsb' 8 2 = 0 ∨ cmd.extractLsb' 10 2 ≠ 0 ∨ cmd.extractLsb' 13 19 ≠ 0)) ∨
  (opcode = 0x0A ∧ ((cmd.extractLsb' 8 4).toNat ≥ 11 ∨ cmd.extractLsb' 12 20 ≠ 0))

/-- `t` is `s` after the update of rule R116 for the value `v`: the slots the old cursors select hold the
value and the delta, every other slot reads as before, and the cursors and PRIOR are the new ones. -/
structure State.AdvancedBy (s t : State) (v : Nat) : Prop where
  tf_written : t.tf.read s.fcmHash.toNat = BitVec.ofNat 64 v
  tf_kept : ∀ i, i ≠ s.fcmHash.toNat → t.tf.read i = s.tf.read i
  td_written : (t.td.read s.dfcmHash.toNat).toNat
    = (((v : Int) - (s.prior.toNat : Int)) % (2 ^ widthBits s.cfg.w : Int)).toNat
  td_kept : ∀ i, i ≠ s.dfcmHash.toNat → t.td.read i = s.td.read i
  fcmHash_next : t.fcmHash.toNat
    = ((s.fcmHash.toNat * 2 ^ s.hargs.lf.toNat) ^^^ (v / 2 ^ s.hargs.rf.toNat)) % 2 ^ s.cfg.flog2.toNat
  dfcmHash_next : t.dfcmHash.toNat
    = ((s.dfcmHash.toNat * 2 ^ s.hargs.ld.toNat) ^^^
        ((t.td.read s.dfcmHash.toNat).toNat / 2 ^ s.hargs.rd.toNat)) % 2 ^ s.cfg.dlog2.toNat
  prior_next : t.prior.toNat = v

/-- Every register that neither ENCV nor DECV writes is the same in `s` and `t` (rules R151, R153, R116): PARAMS,
CFG, HARGS, SEED, MODE and the error status. -/
structure State.SameSettings (s t : State) : Prop where
  params : t.params = s.params
  cfg : t.cfg = s.cfg
  hargs : t.hargs = s.hargs
  seed : t.seed = s.seed
  mode : t.mode = s.mode
  errv : t.errv = s.errv
  errcode : t.errcode = s.errcode
  draws : t.draws = s.draws

/-- A call (`42_stream.md`): BEGIN, the per-value commands, END. -/
def callOf (mode : BitVec 2) (k : Bool) (body : List Instr) : List Instr :=
  .beginCall mode k :: (body ++ [.endCall])

/-- The outcome of commands run one after another, up to the first stop. -/
def execAll : List Instr → State → Result
  | [], s => .next s
  | i :: rest, s =>
    match exec i s with
    | .next s' => execAll rest s'
    | .fault r => .fault r
    | .refused r => .refused r

/-- The states that steps of the engine and actions of the host lead to from reset, for every implementation's
parameters and every unspecified table image (rules R250-R253). -/
inductive State.Reachable : State → Prop where
  | reset (params : Params) (draws : Nat) : State.Reachable (State.resetWith params draws)
  | step {s t : State} : State.Reachable s → Machine.step s = .next t → State.Reachable t
  | host {s : State} (a : HostAction) : State.Reachable s → State.Reachable (s.host a)

end Sys2Proof.Machine
end

