-- ==== Sys2Proof/Certificates/Slice0/Obligations.lean ====
section
/-! DEFINITION. The statements about the engine, for the provers. Each docstring names the rule or the section of
the spec it formalises. Statements about commands hold for every implementation's PARAMS and for every value of
the unspecified table images. -/

open Sys2Proof Sys2Proof.Machine

/-! Command words -/

/-- Rules R82-R88: for every legal command, the decoder reads the command back from its words. -/
def Obligations.DecodeReadsBackEveryEncoding : Prop :=
  ∀ i : Instr, i.wellFormed = true → decode (encode i) = .ok i

/-- Rules R80, R81, R88: a word that decodes has one meaning. It is the encoding of the command it decodes to, bit
for bit, and the operand is that command's operand or is ignored. -/
def Obligations.DecodedWordIsTheEncoding : Prop :=
  ∀ (c : Command) (i : Instr), decode c = .ok i →
    i.wellFormed = true ∧ encodeWord i = c.cmd ∧
    (encodeOperand i = c.operand ∨
      (opcodeOf c.cmd ∉ [0x03#8, 0x07#8, 0x0C#8] ∧ ∀ o, decode ⟨c.cmd, o⟩ = .ok i))

/-- Rules R90, R221: exactly the words rule R90 lists decode to nothing; on an engine that is not halted such a word
raises ILLEGAL, in every mode, and no other error. On a halted engine, whatever the opcode, it gets ok = 0 and data = 0
and nothing else changes, the first error's code included (rules R227, R232, R234). -/
def Obligations.IllegalWordsRaiseIllegal : Prop :=
  (∀ c : Command, (∃ i, decode c = .ok i) ↔ ¬ IllegalWord c.cmd) ∧
  ∀ (s : State) (c : Command) (rest : List Command), s.cmds = c :: rest → IllegalWord c.cmd →
    (s.errv = false → step s = .next { s with
      errv := true, errcode := 1, cmds := rest, resps := s.resps ++ [⟨false, 0⟩] }) ∧
    (s.errv = true → step s = .next { s with cmds := rest, resps := s.resps ++ [⟨false, 0⟩] })

/-- Section 2.1 of `95_test_vectors.md`: sample words and the commands they stand for. -/
def Obligations.SampleWordsDecode : Prop :=
  decode ⟨0x00000000, 5⟩ = .ok .nop ∧
  decode ⟨0x03030101, 0⟩ = .ok (.cfg .w32 3 3) ∧
  decode ⟨0xA02C0602, 0⟩ = .ok (.hargs 6 48 2 40) ∧
  decode ⟨0x00001206, 0⟩ = .ok (.beginCall 2 true) ∧
  decode ⟨0x00000007, 9⟩ = .ok (.encv 9) ∧
  decode ⟨0x00000A0A, 0⟩ = .ok (.rdreg 10) ∧
  decode ⟨0x0000070C, 0xABC⟩ = .ok (.wrtbl .dfcm 3 0xABC) ∧
  decode ⟨0x0000010D, 0⟩ = .error .reservedBit

/-! Steps -/

/-- Rules R67, R252: when the oldest command presented decodes to a command, the step runs it; nothing is added
around it (the command's own completion takes it off the port). -/
def Obligations.StepRunsDecodedCommand : Prop :=
  ∀ (s : State) (c : Command) (rest : List Command) (i : Instr),
    s.cmds = c :: rest → decode c = .ok i → step s = exec i s

/-- The model's choice of log entry 1, from rules R66 and R252: an engine to which no command is presented does not
change. -/
def Obligations.StepWithoutCommandChangesNothing : Prop :=
  ∀ s : State, s.cmds = [] → step s = .next s

/-- Rule R80: every command yields exactly one response, and a failed or rejected one carries data 0. A step either
finds the engine waiting and changes nothing (the model's choice, log entries 1 and 2), or takes exactly the oldest
command and gives exactly one response. -/
def Obligations.EachCommandYieldsOneResponse : Prop :=
  ∀ s t : State, step s = .next t →
    (s.Waiting ∧ t = s) ∨
    (¬ s.Waiting ∧ ∃ c r, s.cmds = c :: t.cmds ∧ t.resps = s.resps ++ [r] ∧ (r.ok = false → r.data = 0))

/-- From rules R44 and R76: in every state that meets the invariants the step answers next, so that the fault of log
entry 6 is never raised there. Rule R252 gives a waiting engine no step; that the model's step answers next there too,
with the state unchanged, is the model's choice (log entries 1 and 2), and so is the canonical form of the tables among
the invariants (log entry 5). -/
def Obligations.StepNeverStops : Prop :=
  ∀ s : State, s.Inv → ∃ t, step s = .next t

/-! Reset and invariants -/

/-- Rule R250: what hardware reset leaves, for every implementation's parameters; the invariants of rule R44 hold, and
the first command presented is run with no further action. The table slots are unspecified, so nothing is said of
them. -/
def Obligations.ResetLeavesStatedValues : Prop :=
  ∀ (p : Params) (d : Nat),
    let s := State.resetWith p d
    s.params = p ∧ s.cfg = ⟨.w64, 0, 0⟩ ∧ s.hargs = ⟨6, 48, 2, 40⟩ ∧ s.seed = 0 ∧
    s.fcmHash = 0 ∧ s.dfcmHash = 0 ∧ s.prior = 0 ∧ s.mode = .idle ∧ s.half = false ∧ s.pend = 0 ∧
    s.vcount = 0 ∧ s.pcount = 0 ∧ s.hcount = 0 ∧ s.errv = false ∧ s.errcode = 0 ∧
    s.hdrOut = [] ∧ s.payOut = [] ∧ s.hdrIn = [] ∧ s.payIn = [] ∧
    s.status = 0 ∧ s.SixInvariants ∧
    ∀ c i, decode c = .ok i → step (s.host (.present c)) = exec i (s.host (.present c))

/-- Rule R44, the starting point: `State.reset` meets the invariants (with those the model adds, log entry 5). -/
def Obligations.ResetMeetsInvariant : Prop := State.reset.Inv

/-- Rule R44: every step keeps its six invariants, from every state that meets them, and hardware reset establishes them
in every state. -/
def Obligations.StepKeepsTheSixInvariants : Prop :=
  (∀ s t : State, s.SixInvariants → step s = .next t → t.SixInvariants) ∧
  ∀ s : State, (s.host .hardwareReset).SixInvariants

/-- Rules R44, R22, R220: every step keeps the six invariants together with those the model adds, the legal values of
CFG, the cause codes in use and the canonical form of both tables (the model's choice, log entry 5), from every state
that meets them. -/
def Obligations.StepKeepsInvariant : Prop :=
  ∀ s t : State, s.Inv → step s = .next t → t.Inv

/-- From rules R44, R42, R252 and R253: what the host may do between steps, hardware reset included, keeps the
invariants. The canonical form of the tables among them (log entry 5), and the host's actions as functions that move one
byte, one response or one command (log entry 13), are the model's choice. -/
def Obligations.HostActionsKeepInvariant : Prop :=
  ∀ (s : State) (a : HostAction), s.Inv → (s.host a).Inv

/-- Rule R253: hardware reset at any time gives the reset state of rule R250 with the parameters as wired: queued
commands are gone without a response, the streams are empty, the tables are unspecified (fresh free values, log entry 4). That the responses already
given stay is the model's choice, log entry 7. -/
def Obligations.HardwareResetAtAnyTime : Prop :=
  ∀ s : State,
    let t := s.host .hardwareReset
    t = { State.resetWith s.params s.draws with resps := s.resps } ∧
    t.cmds = [] ∧ t.resps = s.resps ∧
    t.hdrOut = [] ∧ t.payOut = [] ∧ t.hdrIn = [] ∧ t.payIn = [] ∧
    (∀ i, t.tf.read i = Config.unspecifiedSlot s.draws i) ∧
    ∀ i, t.td.read i = Config.unspecifiedSlot (s.draws + 1) i

/-- From rules R44, R252 and R253: whatever the host does between steps, and whenever it applies hardware reset, every
state the engine reaches meets the invariants, and its step answers next. The canonical form of the tables among the
invariants (log entry 5), the host's actions (log entry 13), and that a waiting engine's step answers next with the
state unchanged where rule R252 gives it no step (log entries 1 and 2), are the model's choice. -/
def Obligations.ReachableStatesAreGood : Prop :=
  ∀ s : State, State.Reachable s → s.Inv ∧ ∃ t, step s = .next t

/-! Errors and the halted state -/

/-- Rule R230 and R231: a response with ok = 0 has data 0 and comes with no change but the error status, and the first
error's code is kept. -/
def Obligations.ErrorsArePrecise : Prop :=
  ∀ (s t : State) (x : Word), step s = .next t → t.resps = s.resps ++ [⟨false, x⟩] →
    x = 0 ∧ ∃ code : BitVec 4,
      t = { s with errv := true, errcode := code, cmds := s.cmds.tail, resps := s.resps ++ [⟨false, 0⟩] } ∧
      (s.errv = true → code = s.errcode)

/-- Rule R232: while halted, every command but NOP, RDREG and ERRCLR is rejected: ok = 0, data = 0, nothing else
changes, the cause code included; a DECV does not wait. -/
def Obligations.HaltedEngineRejects : Prop :=
  ∀ s : State, s.errv = true →
    let rejected := Host.Outcome.next (ρ := Refusal) (φ := Fault)
      { s with cmds := s.cmds.tail, resps := s.resps ++ [⟨false, 0⟩] }
    (∀ w f d, exec (.cfg w f d) s = rejected) ∧
    (∀ a b c d, exec (.hargs a b c d) s = rejected) ∧
    (∀ o, exec (.seed o) s = rejected) ∧
    exec .defaults s = rejected ∧ exec .clear s = rejected ∧
    (∀ m k, exec (.beginCall m k) s = rejected) ∧
    (∀ o, exec (.encv o) s = rejected) ∧
    exec .decv s = rejected ∧ exec .endCall s = rejected ∧
    (∀ t i, exec (.rdtbl t i) s = rejected) ∧ (∀ t i o, exec (.wrtbl t i o) s = rejected)

/-- Rule R233: a step leaves the halted state exactly when it runs an ERRCLR, and then ERRV and ERRCODE are 0, MODE is
IDLE and HALF and PEND are 0; every other step keeps the engine halted with the first error's code (rules R231, R234). -/
def Obligations.OnlyErrclrLeavesHalt : Prop :=
  ∀ s t : State, s.errv = true → step s = .next t →
    (t.errv = true ∧ t.errcode = s.errcode ∧ ¬ ∃ c rest, s.cmds = c :: rest ∧ decode c = .ok .errclr) ∨
    (∃ c rest, s.cmds = c :: rest ∧ decode c = .ok .errclr ∧
      t.errv = false ∧ t.errcode = 0 ∧ t.mode = .idle ∧ t.half = false ∧ t.pend = 0)

/-- Rules R222, R226: a legal command the current mode does not accept raises SEQ, and nothing else changes. -/
def Obligations.SequencingErrors : Prop :=
  ∀ s : State, s.errv = false →
    let seqError := Host.Outcome.next (ρ := Refusal) (φ := Fault)
      { s with errv := true, errcode := 2, cmds := s.cmds.tail, resps := s.resps ++ [⟨false, 0⟩] }
    (s.mode ≠ .idle →
      (∀ w f d, exec (.cfg w f d) s = seqError) ∧
      (∀ a b c d, exec (.hargs a b c d) s = seqError) ∧
      (∀ o, exec (.seed o) s = seqError) ∧
      exec .defaults s = seqError ∧ exec .clear s = seqError ∧
      (∀ m k, m ≠ 0 → exec (.beginCall m k) s = seqError) ∧
      (∀ t i, exec (.rdtbl t i) s = seqError) ∧ (∀ t i o, exec (.wrtbl t i o) s = seqError)) ∧
    (s.mode = .idle ∨ s.mode = .dec → ∀ o, exec (.encv o) s = seqError) ∧
    (s.mode ≠ .dec → exec .decv s = seqError) ∧
    (s.mode = .idle → exec .endCall s = seqError)

/-- Rules R223, R224: CFG beyond the RAM depth raises CFGRANGE, and RDTBL or WRTBL at or above the configured size
raises BADIDX, in an idle engine that is not halted; nothing else changes. -/
def Obligations.RangeErrors : Prop :=
  ∀ s : State, s.errv = false → s.mode = .idle →
    (∀ w f d, (s.params.maxLog2F.val < f.toNat ∨ s.params.maxLog2D.val < d.toNat) →
      exec (.cfg w f d) s = .next
        { s with errv := true, errcode := 3, cmds := s.cmds.tail, resps := s.resps ++ [⟨false, 0⟩] }) ∧
    ∀ (t : Table) (i : BitVec 23) (o : Word),
      (t = .fcm ∧ 2 ^ s.cfg.flog2.toNat ≤ i.toNat ∨ t = .dfcm ∧ 2 ^ s.cfg.dlog2.toNat ≤ i.toNat) →
      exec (.rdtbl t i) s = .next
        { s with errv := true, errcode := 4, cmds := s.cmds.tail, resps := s.resps ++ [⟨false, 0⟩] } ∧
      exec (.wrtbl t i o) s = .next
        { s with errv := true, errcode := 4, cmds := s.cmds.tail, resps := s.resps ++ [⟨false, 0⟩] }

/-- Rule R225: at W = 32 a DECV about to use a field with code 5, 6 or 7, a fresh low nibble or a pending high one,
raises BADHDR, whatever PAY_IN holds, and consumes nothing; at W = 64 no DECV raises it. -/
def Obligations.BadHeaderError : Prop :=
  ∀ s : State, s.errv = false → s.mode = .dec →
    (∀ field : BitVec 4,
      (s.half = true ∧ field = s.pend ∨ s.half = false ∧ ∃ b rest, s.hdrIn = b :: rest ∧ field = b.extractLsb' 0 4) →
      s.cfg.w = .w32 → 5 ≤ field.toNat % 8 →
      exec .decv s = .next
        { s with errv := true, errcode := 5, cmds := s.cmds.tail, resps := s.resps ++ [⟨false, 0⟩] }) ∧
    (s.cfg.w = .w64 → ∀ t, exec .decv s = .next t → t.errv = false)

/-! Who writes what -/

/-- Rules R22-R38 ("written by"), R40: each register and table changes only under the commands the spec names as its
writers, PARAMS under none. ERRV and ERRCODE change only under ERRCLR, which leaves both 0, and under an error raised on
an engine that is not halted, which leaves ERRV = 1 and a cause code in 1..5, with the response ok = 0. -/
def Obligations.RegistersChangeOnlyByTheirWriters : Prop :=
  ∀ (i : Instr) (s t : State), exec i s = .next t →
    let isCfg := ∃ w f d, i = .cfg w f d
    let isSeed := ∃ o, i = .seed o
    let isBegin := ∃ m k, i = .beginCall m k
    let isEncv := ∃ o, i = .encv o
    let isValue := isEncv ∨ i = .decv
    t.params = s.params ∧ t.draws = s.draws ∧
    (t.cfg ≠ s.cfg → isCfg) ∧
    (t.hargs ≠ s.hargs → (∃ a b c d, i = .hargs a b c d) ∨ i = .defaults) ∧
    (t.seed ≠ s.seed → isSeed ∨ i = .defaults) ∧
    (t.fcmHash ≠ s.fcmHash ∨ t.dfcmHash ≠ s.dfcmHash ∨ t.prior ≠ s.prior →
      isCfg ∨ (∃ m, i = .beginCall m false) ∨ isValue) ∧
    (t.mode ≠ s.mode → isBegin ∨ i = .endCall ∨ i = .errclr) ∧
    (t.half ≠ s.half ∨ t.pend ≠ s.pend → isBegin ∨ i = .endCall ∨ i = .errclr ∨ isValue) ∧
    (t.vcount ≠ s.vcount ∨ t.pcount ≠ s.pcount → isBegin ∨ isValue) ∧
    (t.hcount ≠ s.hcount → isBegin ∨ isValue ∨ i = .endCall) ∧
    (t.errv ≠ s.errv ∨ t.errcode ≠ s.errcode →
      (i = .errclr ∧ t.errv = false ∧ t.errcode = 0) ∨
      (s.errv = false ∧ t.errv = true ∧ 1 ≤ t.errcode.toNat ∧ t.errcode.toNat ≤ 5 ∧
        t.resps = s.resps ++ [⟨false, 0⟩])) ∧
    (∀ tbl n, t.memRead tbl n ≠ s.memRead tbl n →
      isValue ∨ i = .clear ∨ ∃ idx o, i = .wrtbl tbl idx o ∧ n = idx.toNat)

/-- Rules R42, R65, R267: a step only appends to HDR_OUT and PAY_OUT, and that in an ENC call only; it only removes at
the head of HDR_IN and PAY_IN, at most one header byte and at most w payload bytes, and that under a DECV only. -/
def Obligations.StreamsAreFifo : Prop :=
  ∀ s t : State, step s = .next t →
    (∃ h, t.hdrOut = s.hdrOut ++ h ∧ (h ≠ [] → s.mode = .enc)) ∧
    (∃ p, t.payOut = s.payOut ++ p ∧ (p ≠ [] → s.mode = .enc)) ∧
    (∃ n, n ≤ 1 ∧ t.hdrIn = s.hdrIn.drop n) ∧
    (∃ k, k ≤ widthBytes s.cfg.w ∧ t.payIn = s.payIn.drop k) ∧
    (t.hdrIn ≠ s.hdrIn ∨ t.payIn ≠ s.payIn → ∃ c rest, s.cmds = c :: rest ∧ decode c = .ok .decv)

/-! Context commands -/

/-- Rule R130: an accepted CFG in range writes CFG, zeroes the cursors and loads PRIOR with SEED mod 2^W' for the new
width W'; nothing else changes. -/
def Obligations.CfgConfigures : Prop :=
  ∀ (w : Width) (f d : BitVec 5) (s : State), s.errv = false → s.mode = .idle →
    f.toNat ≤ s.params.maxLog2F.val → d.toNat ≤ s.params.maxLog2D.val →
    exec (.cfg w f d) s = .next { s with
      cfg := ⟨w, f, d⟩, fcmHash := 0, dfcmHash := 0
      prior := BitVec.ofNat 64 (s.seed.toNat % 2 ^ widthBits w)
      cmds := s.cmds.tail, resps := s.resps ++ [⟨true, 0⟩] }

/-- Rules R132-R134: an accepted HARGS, SEED or DEFAULTS writes its registers and nothing else: PRIOR, the cursors
and the tables keep their values (rule R131). -/
def Obligations.HargsSeedDefaultsWriteTheirRegisters : Prop :=
  ∀ s : State, s.errv = false → s.mode = .idle →
    (∀ lf rf ld rd, exec (.hargs lf rf ld rd) s = .next { s with
      hargs := ⟨lf, rf, ld, rd⟩, cmds := s.cmds.tail, resps := s.resps ++ [⟨true, 0⟩] }) ∧
    (∀ o, exec (.seed o) s = .next { s with
      seed := o, cmds := s.cmds.tail, resps := s.resps ++ [⟨true, 0⟩] }) ∧
    exec .defaults s = .next { s with
      hargs := (if s.cfg.w = .w64 then ⟨6, 48, 2, 40⟩ else ⟨1, 22, 4, 23⟩)
      seed := 0, cmds := s.cmds.tail, resps := s.resps ++ [⟨true, 0⟩] }

/-- Rule R135: an accepted CLEAR makes every slot of both tables read 0 and changes nothing else. -/
def Obligations.ClearZeroesBothTables : Prop :=
  ∀ s : State, s.errv = false → s.mode = .idle →
    ∃ t, exec .clear s = .next t ∧
      (∀ tbl i, t.memRead tbl i = 0) ∧
      t = { s with tf := t.tf, td := t.td, cmds := s.cmds.tail, resps := s.resps ++ [⟨true, 0⟩] }

/-- Rule R136 (and R254): two idle engines given CFG, then HARGS and SEED, or DEFAULTS, then CLEAR, complete all of
them, and start their next K = 0 call in equal states: equal synchronisation sets and seeds, with zero tables and
cursors and PRIOR = SEED mod 2^W. (PRIOR takes the new seed at that BEGIN, rule R133; log entry 12.) -/
def Obligations.BootGivesKnownState : Prop :=
  ∀ (e d : State) (w : Width) (f g : BitVec 5) (lf rf ld rd : BitVec 6) (o : Word) (m : BitVec 2),
    e.errv = false → d.errv = false → e.mode = .idle → d.mode = .idle → m ≠ 0 →
    f.toNat ≤ e.params.maxLog2F.val → g.toNat ≤ e.params.maxLog2D.val →
    f.toNat ≤ d.params.maxLog2F.val → g.toNat ≤ d.params.maxLog2D.val →
    ∀ setup, setup = [Instr.hargs lf rf ld rd, .seed o] ∨ setup = [.defaults] →
    ∃ e' d', execAll (.cfg w f g :: (setup ++ ([.clear, .beginCall m false] : List Instr))) e = .next e' ∧
      execAll (.cfg w f g :: (setup ++ ([.clear, .beginCall m false] : List Instr))) d = .next d' ∧
      e'.SyncEq d' ∧ e'.seed = d'.seed ∧
      e'.cfg = ⟨w, f, g⟩ ∧ e'.fcmHash = 0 ∧ e'.dfcmHash = 0 ∧
      e'.prior.toNat = e'.seed.toNat % 2 ^ widthBits w ∧
      ∀ tbl i, e'.memRead tbl i = 0 ∧ d'.memRead tbl i = 0

/-! Call commands -/

/-- Rule R150: an accepted BEGIN sets the mode, restarts the packer and the counters, and with K = 0 the cursors and
PRIOR; with K = 1 these keep their values. Nothing else changes. -/
def Obligations.BeginOpensCall : Prop :=
  ∀ (m : BitVec 2) (k : Bool) (s : State), s.errv = false → s.mode = .idle → m ≠ 0 →
    exec (.beginCall m k) s = .next { s with
      mode := (if m = 1 then .enc else if m = 2 then .size else .dec)
      half := false, pend := 0, vcount := 0, pcount := 0, hcount := 0
      fcmHash := (if k then s.fcmHash else 0)
      dfcmHash := (if k then s.dfcmHash else 0)
      prior := (if k then s.prior else BitVec.ofNat 64 (s.seed.toNat % 2 ^ widthBits s.cfg.w))
      cmds := s.cmds.tail, resps := s.resps ++ [⟨true, 0⟩] }

/-- Rules R151, R152, R116: an accepted ENCV, in an ENC or a SIZE call, on v = operand mod 2^W: the tables, cursors and
PRIOR are advanced; the header field is held, or leaves with the field held before (in ENC; it is counted in both);
the payload bytes leave (in ENC); the counters count; the response carries the field and the payload length; the
input streams and every other register stay. -/
def Obligations.EncvEncodesOneValue : Prop :=
  ∀ (o : Word) (s : State), s.Inv → s.errv = false → s.mode = .enc ∨ s.mode = .size →
    ∃ t, exec (.encv o) s = .next t ∧
      let v := o.toNat % 2 ^ widthBits s.cfg.w
      let e := s.encodeValue v
      s.AdvancedBy t v ∧ s.SameSettings t ∧
      t.vcount = s.vcount + 1 ∧ t.pcount = s.pcount + BitVec.ofNat 64 e.k ∧
      t.hdrIn = s.hdrIn ∧ t.payIn = s.payIn ∧ t.cmds = s.cmds.tail ∧
      t.payOut = (if s.mode = .enc then s.payOut ++ e.bytes else s.payOut) ∧
      (s.half = false → t.half = true ∧ t.pend = e.field ∧ t.hcount = s.hcount ∧ t.hdrOut = s.hdrOut) ∧
      (s.half = true → t.half = false ∧ t.pend = 0 ∧ t.hcount = s.hcount + 1 ∧
        t.hdrOut = (if s.mode = .enc then s.hdrOut ++ [e.field ++ s.pend] else s.hdrOut)) ∧
      ∃ data : Word, t.resps = s.resps ++ [⟨true, data⟩] ∧ data.toNat = e.field.toNat * 256 + e.k

/-- Rule R151, decision D12: at W = 32 bits [63:32] of the operand are ignored. -/
def Obligations.EncvIgnoresUpperHalfAtW32 : Prop :=
  ∀ (s : State) (o o' : Word), s.cfg.w = .w32 → o.extractLsb' 0 32 = o'.extractLsb' 0 32 →
    exec (.encv o) s = exec (.encv o') s

/-- Rules R153, R155, R116: a DECV in a DEC call whose header field and payload bytes are there completes: it responds
the decoded value and advances on it; it consumes the payload bytes, and the header byte when it took a fresh one,
keeping its high nibble; the counters count; the output streams and every other register stay. -/
def Obligations.DecvDecodesOneValue : Prop :=
  ∀ (s : State) (field : BitVec 4), s.Inv → s.errv = false → s.mode = .dec →
    (s.half = true ∧ field = s.pend ∨
      s.half = false ∧ ∃ b rest, s.hdrIn = b :: rest ∧ field = b.extractLsb' 0 4) →
    (s.cfg.w = .w32 → field.toNat % 8 ≤ 4) →
    payLen s.cfg.w (field.toNat % 8) ≤ s.payIn.length →
    ∃ t, exec .decv s = .next t ∧
      let k := payLen s.cfg.w (field.toNat % 8)
      let v := s.decodeValue field (s.payIn.take k)
      v < 2 ^ widthBits s.cfg.w ∧
      s.AdvancedBy t v ∧ s.SameSettings t ∧
      t.vcount = s.vcount + 1 ∧ t.pcount = s.pcount + BitVec.ofNat 64 k ∧
      t.hdrOut = s.hdrOut ∧ t.payOut = s.payOut ∧ t.cmds = s.cmds.tail ∧
      t.payIn = s.payIn.drop k ∧
      (s.half = true → t.half = false ∧ t.pend = 0 ∧ t.hcount = s.hcount ∧ t.hdrIn = s.hdrIn) ∧
      (∀ b rest, s.half = false → s.hdrIn = b :: rest →
        t.half = true ∧ t.pend = b.extractLsb' 4 4 ∧ t.hcount = s.hcount + 1 ∧ t.hdrIn = rest) ∧
      ∃ data : Word, t.resps = s.resps ++ [⟨true, data⟩] ∧ data.toNat = v

/-- Rule R156: while a DECV needs a header byte and HDR_IN is empty, or PAY_IN holds fewer bytes than its field calls
for, the step changes nothing (that a wait is an unchanged next state is the model's choice, log entry 2); once the
host has appended what is missing, the command completes. -/
def Obligations.DecvWaitsForItsInput : Prop :=
  ∀ (s : State) (c : Command) (rest : List Command), s.cmds = c :: rest → decode c = .ok .decv →
    s.errv = false → s.mode = .dec →
    (s.half = false → s.hdrIn = [] → step s = .next s) ∧
    (∀ field : BitVec 4,
      (s.half = true ∧ field = s.pend ∨
        s.half = false ∧ ∃ b hs, s.hdrIn = b :: hs ∧ field = b.extractLsb' 0 4) →
      (s.cfg.w = .w32 → field.toNat % 8 ≤ 4) →
      (s.payIn.length < payLen s.cfg.w (field.toNat % 8) → step s = .next s) ∧
      (s.Inv → ∀ more : List Byte, payLen s.cfg.w (field.toNat % 8) ≤ s.payIn.length + more.length →
        ∃ t r, step { s with payIn := s.payIn ++ more } = .next t ∧ t.cmds = rest ∧
          t.resps = s.resps ++ [⟨true, r⟩]))

/-- Rule R154: an accepted END closes the call and responds PCOUNT; an odd last header field leaves in ENC as the low
nibble of a byte whose high nibble is 0, is counted in ENC and SIZE, and is dropped in DEC. Nothing else changes. -/
def Obligations.EndClosesCall : Prop :=
  ∀ s : State, s.errv = false → s.mode ≠ .idle →
    exec .endCall s = .next { s with
      mode := .idle, half := false, pend := 0
      hdrOut := (if s.half = true ∧ s.mode = .enc then s.hdrOut ++ [0#4 ++ s.pend] else s.hdrOut)
      hcount := (if s.half = true ∧ s.mode ≠ .dec then s.hcount + 1 else s.hcount)
      cmds := s.cmds.tail, resps := s.resps ++ [⟨true, s.pcount⟩] }

/-! Access commands -/

/-- Rule R180: NOP, in every mode and while halted, responds 0 and changes nothing else. -/
def Obligations.NopRespondsZero : Prop :=
  ∀ s : State, exec .nop s = .next { s with cmds := s.cmds.tail, resps := s.resps ++ [⟨true, 0⟩] }

/-- Rules R181, R39, R22, R24, R40: RDREG, in every mode and while halted, responds the selected view and changes
nothing else; a SEL of 11 to 15 raises ILLEGAL, and the first error's code is kept. -/
def Obligations.RdregRespondsTheView : Prop :=
  ∀ s : State,
    let answers (sel : BitVec 4) (n : Nat) : Prop := ∃ data : Word, data.toNat = n ∧
      exec (.rdreg sel) s = .next { s with cmds := s.cmds.tail, resps := s.resps ++ [⟨true, data⟩] }
    answers 0 (s.mode.bits.toNat + 4 * s.half.toNat + 8 * s.errv.toNat + 16 * s.pend.toNat
      + 256 * s.errcode.toNat) ∧
    answers 1 ((if s.cfg.w = .w32 then 256 else 0) + 2 ^ 16 * s.cfg.flog2.toNat
      + 2 ^ 24 * s.cfg.dlog2.toNat) ∧
    answers 2 (2 ^ 8 * s.hargs.lf.toNat + 2 ^ 14 * s.hargs.rf.toNat + 2 ^ 20 * s.hargs.ld.toNat
      + 2 ^ 26 * s.hargs.rd.toNat) ∧
    answers 3 s.seed.toNat ∧ answers 4 s.fcmHash.toNat ∧ answers 5 s.dfcmHash.toNat ∧
    answers 6 s.prior.toNat ∧ answers 7 s.vcount.toNat ∧ answers 8 s.pcount.toNat ∧
    answers 9 s.hcount.toNat ∧
    answers 10 (s.params.maxLog2F.val + 2 ^ 8 * s.params.maxLog2D.val) ∧
    ∀ sel : BitVec 4, 11 ≤ sel.toNat →
      exec (.rdreg sel) s = .next { s with
        errv := true, errcode := (if s.errv then s.errcode else 1)
        cmds := s.cmds.tail, resps := s.resps ++ [⟨false, 0⟩] }

/-- Rule R182: an accepted RDTBL below the configured size, in a state that meets the invariants, responds the whole
64-bit slot and changes nothing. -/
def Obligations.RdtblRespondsTheSlot : Prop :=
  ∀ (s : State) (i : BitVec 23), s.Inv → s.errv = false → s.mode = .idle →
    (i.toNat < 2 ^ s.cfg.flog2.toNat → exec (.rdtbl .fcm i) s = .next { s with
      cmds := s.cmds.tail, resps := s.resps ++ [⟨true, s.tf.read i.toNat⟩] }) ∧
    (i.toNat < 2 ^ s.cfg.dlog2.toNat → exec (.rdtbl .dfcm i) s = .next { s with
      cmds := s.cmds.tail, resps := s.resps ++ [⟨true, s.td.read i.toNat⟩] })

/-- Rule R183: an accepted WRTBL below the configured size, in a state that meets the invariants, writes all 64 bits of
its slot, whatever W is; every other slot of both tables reads as before and nothing else changes. -/
def Obligations.WrtblWritesOneSlot : Prop :=
  ∀ (s : State) (tbl : Table) (i : BitVec 23) (o : Word), s.Inv → s.errv = false → s.mode = .idle →
    i.toNat < 2 ^ s.sizeLog2 tbl →
    ∃ t, exec (.wrtbl tbl i o) s = .next t ∧
      t.memRead tbl i.toNat = o ∧
      (∀ tbl' j, (tbl', j) ≠ (tbl, i.toNat) → t.memRead tbl' j = s.memRead tbl' j) ∧
      t = { s with tf := t.tf, td := t.td, cmds := s.cmds.tail, resps := s.resps ++ [⟨true, 0⟩] }

/-- Rule R184: ERRCLR, in every mode and while halted, clears the error status and abandons an open call; the tables,
cursors, PRIOR, counters and streams keep what they hold. -/
def Obligations.ErrclrClearsAndAborts : Prop :=
  ∀ s : State, exec .errclr s = .next { s with
    errv := false, errcode := 0, mode := .idle, half := false, pend := 0
    cmds := s.cmds.tail, resps := s.resps ++ [⟨true, 0⟩] }

/-! The datapath -/

/-- Rule R114: the hash is below 2^S, is 0 in a one-slot table, loses its left term when L ≥ S and its right term
when the source value has no bit at or above R. -/
def Obligations.HashStaysInTable : Prop :=
  ∀ h x l r size : Nat,
    tableHash h x l r size = ((h * 2 ^ l) ^^^ (x / 2 ^ r)) % 2 ^ size ∧
    tableHash h x l r size < 2 ^ size ∧
    tableHash h x l r 0 = 0 ∧
    (size ≤ l → tableHash h x l r size = x / 2 ^ r % 2 ^ size) ∧
    (x < 2 ^ r → tableHash h x l r size = h * 2 ^ l % 2 ^ size)

/-- Rule R119: `Lzbc(r)` is the largest k in 0..w with r < 2^(W - 8k). -/
def Obligations.LzbcIsTheLargest : Prop :=
  ∀ (w : Width) (r : Nat), r < 2 ^ widthBits w →
    lzbc w r ≤ widthBytes w ∧ r < 2 ^ (widthBits w - 8 * lzbc w r) ∧
    ∀ k, k ≤ widthBytes w → r < 2 ^ (widthBits w - 8 * k) → k ≤ lzbc w r

/-- Rules R120, R121, R95, R96, R98: the code of each leading-zero-byte count, and the identity `LzDec(Code(lz)) = lz`
but for lz = 4 at W = 64, where it is 3. -/
def Obligations.CodeExpandsBack : Prop :=
  ∀ (w : Width) (lz : Nat), lz ≤ widthBytes w →
    lzCode w lz = (if w = .w32 ∨ lz ≤ 3 then lz else lz - 1) ∧
    lzCode w lz ≤ (if w = .w64 then 7 else 4) ∧
    lzDec w (lzCode w lz) = (if w = .w64 ∧ lz = 4 then 3 else lz)

/-- Rule R122: the payload length is w - LzDec(c) and in 0..w, and the residual always fits in its payload bytes. -/
def Obligations.ResidualFitsItsPayload : Prop :=
  ∀ (w : Width) (r : Nat), r < 2 ^ widthBits w →
    (∀ c, payLen w c = widthBytes w - lzDec w c ∧ payLen w c ≤ widthBytes w) ∧
    lzDec w (lzCode w (lzbc w r)) ≤ lzbc w r ∧
    r < 2 ^ (8 * payLen w (lzCode w (lzbc w r)))

/-- Rules R123, R124: Serialize gives the k low-order bytes, most significant first; Deserialize is the big-endian
value of its bytes; and Deserialize undoes Serialize on every r < 2^(8k). -/
def Obligations.DeserializeUndoesSerialize : Prop :=
  (∀ r k : Nat, (serialize r k).length = k ∧
    (∀ j, j < k → (serialize r k)[j]? = some (BitVec.ofNat 8 (r / 2 ^ (8 * (k - 1 - j))))) ∧
    (r < 2 ^ (8 * k) → deserialize (serialize r k) = r)) ∧
  deserialize [] = 0 ∧
  ∀ (b : Byte) (rest : List Byte), deserialize (b :: rest) = b.toNat * 2 ^ (8 * rest.length) + deserialize rest

/-- Rules R117, R118, R128: DFCM is selected exactly when its residual is strictly smaller; the selected residual is
the smaller one, and its leading-zero-byte count the larger one. -/
def Obligations.SelectionTakesTheSmallerResidual : Prop :=
  ∀ (w : Width) (rF rD : Nat), rF < 2 ^ widthBits w → rD < 2 ^ widthBits w →
    (selectPredictor rF rD = .dfcm ↔ rD < rF) ∧
    selectResidual rF rD = min rF rD ∧
    lzbc w (selectResidual rF rD) = max (lzbc w rF) (lzbc w rD)

/-- Rule R125, with R110-R112, R117, R118, R94, R99, R100: the field's type says which prediction is closer (FCM on a
tie); the payload length k is PayLen of the code, and the payload is the k low-order bytes of the smaller residual,
most significant first, with no leading zero byte but for the one that a four-byte residual gets at W = 64, where k is
never 4. -/
def Obligations.EncodeValueFollowsTheRule : Prop :=
  ∀ (s : State) (v : Nat), v < 2 ^ widthBits s.cfg.w →
    let modulus := 2 ^ widthBits s.cfg.w
    let rF := v ^^^ ((s.tf.read s.fcmHash.toNat).toNat % modulus)
    let rD := v ^^^ (((s.td.read s.dfcmHash.toNat).toNat + s.prior.toNat) % modulus)
    let r := min rF rD
    let e := s.encodeValue v
    e.field.toNat / 8 = (if rD < rF then 1 else 0) ∧
    r < 2 ^ (8 * e.k) ∧
    (∀ k, r < 2 ^ (8 * k) → e.k ≤ k ∨ (s.cfg.w = .w64 ∧ k = 4 ∧ e.k = 5)) ∧
    (s.cfg.w = .w64 → e.k ≠ 4) ∧
    e.k = payLen s.cfg.w (e.field.toNat % 8) ∧
    e.field.toNat % 8 = (if s.cfg.w = .w32 then 4 - e.k else if 5 ≤ e.k then 8 - e.k else 7 - e.k) ∧
    e.bytes.length = e.k ∧
    ∀ j, j < e.k → e.bytes[j]? = some (BitVec.ofNat 8 (r / 2 ^ (8 * (e.k - 1 - j))))

/-- Rule R126: DecodeValue is the bytes' big-endian value XOR the prediction the field's type bit names, and with no
more than w bytes it is a W-bit value. -/
def Obligations.DecodeValueFollowsTheRule : Prop :=
  ∀ (s : State) (field : BitVec 4) (bytes : List Byte),
    let modulus := 2 ^ widthBits s.cfg.w
    s.decodeValue field bytes = deserialize bytes ^^^
      (if 8 ≤ field.toNat then ((s.td.read s.dfcmHash.toNat).toNat + s.prior.toNat) % modulus
        else (s.tf.read s.fcmHash.toNat).toNat % modulus) ∧
    (bytes.length ≤ widthBytes s.cfg.w → s.decodeValue field bytes < modulus)

/-- Rules R94, R125, R126, R127: in every state, EncodeValue's field says how many bytes it gives, is one the decoder
accepts, and DecodeValue in the same state gives the value back. -/
def Obligations.EncodedValueDecodesBack : Prop :=
  ∀ (s : State) (v : Nat), v < 2 ^ widthBits s.cfg.w →
    let e := s.encodeValue v
    e.bytes.length = e.k ∧ e.k = payLen s.cfg.w (e.field.toNat % 8) ∧
    (s.cfg.w = .w32 → e.field.toNat % 8 ≤ 4) ∧
    s.decodeValue e.field e.bytes = v

/-- Rule R28: at W = 32 the upper half of a slot never affects what ENCV computes: two states that differ in upper
halves of slots only give the same field, length and bytes. -/
def Obligations.UpperSlotHalvesDoNotMatter : Prop :=
  ∀ (s : State) (tf td : Ram) (v : Nat), s.cfg.w = .w32 →
    (∀ i, (tf.read i).extractLsb' 0 32 = (s.tf.read i).extractLsb' 0 32) →
    (∀ i, (td.read i).extractLsb' 0 32 = (s.td.read i).extractLsb' 0 32) →
    ({ s with tf := tf, td := td } : State).encodeValue v = s.encodeValue v

/-! Encoder and decoder -/

/-- Rules R127, R260: an encoder and a decoder with equal synchronisation sets, whatever their parameters and their
other state: when the encoder encodes a value and the decoder is given that value's field and payload bytes, the
decoder responds the value, consumes exactly those bytes, and the synchronisation sets are equal again. -/
def Obligations.EncoderAndDecoderStayInStep : Prop :=
  ∀ (e d : State) (o : Word) (rest : List Byte),
    e.Inv → d.Inv → e.SyncEq d → e.errv = false → d.errv = false → (e.mode = .enc ∨ e.mode = .size) → d.mode = .dec →
    let v := o.toNat % 2 ^ widthBits e.cfg.w
    let x := e.encodeValue v
    (d.half = true ∧ d.pend = x.field ∨
      d.half = false ∧ ∃ b hs, d.hdrIn = b :: hs ∧ b.extractLsb' 0 4 = x.field) →
    d.payIn = x.bytes ++ rest →
    ∃ e' d', exec (.encv o) e = .next e' ∧ exec .decv d = .next d' ∧
      d'.resps = d.resps ++ [⟨true, BitVec.ofNat 64 v⟩] ∧ d'.payIn = rest ∧ e'.SyncEq d'

/-- Rules R127, R158, R260: a whole call of any n values. An idle encoder and an idle decoder with equal synchronisation
sets and seeds: the encode call appends a header stream of exactly ceil(n/2) bytes and a payload stream, and a decode
call of n DECVs on those streams, followed by anything, responds the n values bit for bit, consumes exactly the
streams, responds the same payload count, and ends with an equal synchronisation set and equal counters. -/
def Obligations.DecodeCallReturnsTheEncodedValues : Prop :=
  ∀ (e d : State) (vs : List Word) (k : Bool),
    e.Inv → d.Inv → e.SyncEq d → e.seed = d.seed → e.errv = false → d.errv = false → e.mode = .idle → d.mode = .idle →
    ∃ e' hs ps,
      execAll (callOf 1 k (vs.map .encv)) e = .next e' ∧
      e'.hdrOut = e.hdrOut ++ hs ∧ e'.payOut = e.payOut ++ ps ∧ hs.length = (vs.length + 1) / 2 ∧
      ∀ hr pr : List Byte,
        ∃ d', execAll (callOf 3 k (List.replicate vs.length .decv))
            { d with hdrIn := hs ++ hr, payIn := ps ++ pr } = .next d' ∧
          d'.resps = d.resps ++ [⟨true, 0⟩]
            ++ vs.map (fun o => (⟨true, BitVec.ofNat 64 (o.toNat % 2 ^ widthBits e.cfg.w)⟩ : Response))
            ++ [⟨true, e'.pcount⟩] ∧
          d'.hdrIn = hr ∧ d'.payIn = pr ∧ e'.SyncEq d' ∧
          d'.vcount = e'.vcount ∧ d'.pcount = e'.pcount ∧ d'.hcount = e'.hcount

/-- Rule R158: the counts of an n-value encode call, where no counter wraps: VCOUNT = n, HCOUNT = ceil(n/2) and as many
header bytes, PCOUNT the number of payload bytes, at most n * w, which END responds. -/
def Obligations.CallCounts : Prop :=
  ∀ (s : State) (vs : List Word) (k : Bool),
    s.Inv → s.errv = false → s.mode = .idle → vs.length * 8 < 2 ^ 64 →
    ∃ t hs ps, execAll (callOf 1 k (vs.map .encv)) s = .next t ∧
      t.hdrOut = s.hdrOut ++ hs ∧ t.payOut = s.payOut ++ ps ∧
      t.vcount.toNat = vs.length ∧
      t.hcount.toNat = (vs.length + 1) / 2 ∧ hs.length = (vs.length + 1) / 2 ∧
      t.pcount.toNat = ps.length ∧ ps.length ≤ vs.length * widthBytes s.cfg.w ∧
      t.resps.getLast? = some ⟨true, t.pcount⟩

/-- Rule R159: a SIZE call and an ENC call on equal states and values end in equal states, responses included, but for
the output streams, to which the SIZE call appends nothing. -/
def Obligations.SizeCallMatchesEncCall : Prop :=
  ∀ (s : State) (vs : List Word) (k : Bool), s.Inv → s.errv = false → s.mode = .idle →
    ∃ a b, execAll (callOf 1 k (vs.map .encv)) s = .next a ∧
      execAll (callOf 2 k (vs.map .encv)) s = .next b ∧
      b = { a with hdrOut := s.hdrOut, payOut := s.payOut }

/-- Rule R160: after a first call of an even number of values, a continued call gives the streams, the tables, the
cursors and PRIOR that one call of all the values gives. -/
def Obligations.ContinuedCallEqualsOneCall : Prop :=
  ∀ (s : State) (vs us : List Word) (k : Bool), s.Inv → s.errv = false → s.mode = .idle → vs.length % 2 = 0 →
    ∃ a b,
      execAll (callOf 1 k (vs.map .encv) ++ callOf 1 true (us.map .encv)) s = .next a ∧
      execAll (callOf 1 k ((vs ++ us).map .encv)) s = .next b ∧
      a.hdrOut = b.hdrOut ∧ a.payOut = b.payOut ∧ a.tf = b.tf ∧ a.td = b.td ∧
      a.fcmHash = b.fcmHash ∧ a.dfcmHash = b.dfcmHash ∧ a.prior = b.prior

/-- Rule R157: a call of zero values completes, appends and consumes nothing, changes no table slot, and END responds
0; with K = 0 it restarts the cursors and PRIOR, with K = 1 it changes no predictor state. -/
def Obligations.ZeroValueCall : Prop :=
  ∀ (s : State) (m : BitVec 2) (k : Bool), s.errv = false → s.mode = .idle → m ≠ 0 →
    execAll (callOf m k []) s = .next { s with
      half := false, pend := 0, vcount := 0, pcount := 0, hcount := 0
      fcmHash := (if k then s.fcmHash else 0)
      dfcmHash := (if k then s.dfcmHash else 0)
      prior := (if k then s.prior else BitVec.ofNat 64 (s.seed.toNat % 2 ^ widthBits s.cfg.w))
      cmds := s.cmds.tail.tail, resps := s.resps ++ [⟨true, 0⟩, ⟨true, 0⟩] }
end

