-- ==== Sys2Proof/Laws/State.lean ====
section
/-! SUPPORT. What each named update of State does to each field: one lemma per field per update. -/

namespace Sys2Proof.Machine

variable (s : State)

/-! `State.complete` -/

@[simp] theorem State.complete_params (ok : Bool) (data : Word) :
    (s.complete ok data).params = s.params := rfl
@[simp] theorem State.complete_cfg (ok : Bool) (data : Word) : (s.complete ok data).cfg = s.cfg := rfl
@[simp] theorem State.complete_hargs (ok : Bool) (data : Word) : (s.complete ok data).hargs = s.hargs := rfl
@[simp] theorem State.complete_seed (ok : Bool) (data : Word) : (s.complete ok data).seed = s.seed := rfl
@[simp] theorem State.complete_fcmHash (ok : Bool) (data : Word) :
    (s.complete ok data).fcmHash = s.fcmHash := rfl
@[simp] theorem State.complete_dfcmHash (ok : Bool) (data : Word) :
    (s.complete ok data).dfcmHash = s.dfcmHash := rfl
@[simp] theorem State.complete_prior (ok : Bool) (data : Word) : (s.complete ok data).prior = s.prior := rfl
@[simp] theorem State.complete_mode (ok : Bool) (data : Word) : (s.complete ok data).mode = s.mode := rfl
@[simp] theorem State.complete_half (ok : Bool) (data : Word) : (s.complete ok data).half = s.half := rfl
@[simp] theorem State.complete_pend (ok : Bool) (data : Word) : (s.complete ok data).pend = s.pend := rfl
@[simp] theorem State.complete_vcount (ok : Bool) (data : Word) :
    (s.complete ok data).vcount = s.vcount := rfl
@[simp] theorem State.complete_pcount (ok : Bool) (data : Word) :
    (s.complete ok data).pcount = s.pcount := rfl
@[simp] theorem State.complete_hcount (ok : Bool) (data : Word) :
    (s.complete ok data).hcount = s.hcount := rfl
@[simp] theorem State.complete_errv (ok : Bool) (data : Word) : (s.complete ok data).errv = s.errv := rfl
@[simp] theorem State.complete_errcode (ok : Bool) (data : Word) :
    (s.complete ok data).errcode = s.errcode := rfl
@[simp] theorem State.complete_tf (ok : Bool) (data : Word) : (s.complete ok data).tf = s.tf := rfl
@[simp] theorem State.complete_td (ok : Bool) (data : Word) : (s.complete ok data).td = s.td := rfl
@[simp] theorem State.complete_hdrOut (ok : Bool) (data : Word) :
    (s.complete ok data).hdrOut = s.hdrOut := rfl
@[simp] theorem State.complete_payOut (ok : Bool) (data : Word) :
    (s.complete ok data).payOut = s.payOut := rfl
@[simp] theorem State.complete_hdrIn (ok : Bool) (data : Word) : (s.complete ok data).hdrIn = s.hdrIn := rfl
@[simp] theorem State.complete_payIn (ok : Bool) (data : Word) : (s.complete ok data).payIn = s.payIn := rfl
@[simp] theorem State.complete_cmds (ok : Bool) (data : Word) : (s.complete ok data).cmds = s.cmds.tail := rfl
@[simp] theorem State.complete_resps (ok : Bool) (data : Word) :
    (s.complete ok data).resps = s.resps ++ [⟨ok, data⟩] := rfl
@[simp] theorem State.complete_draws (ok : Bool) (data : Word) : (s.complete ok data).draws = s.draws := rfl

/-! `State.respond` -/

@[simp] theorem State.respond_params (data : Word) : (s.respond data).params = s.params := rfl
@[simp] theorem State.respond_cfg (data : Word) : (s.respond data).cfg = s.cfg := rfl
@[simp] theorem State.respond_hargs (data : Word) : (s.respond data).hargs = s.hargs := rfl
@[simp] theorem State.respond_seed (data : Word) : (s.respond data).seed = s.seed := rfl
@[simp] theorem State.respond_fcmHash (data : Word) : (s.respond data).fcmHash = s.fcmHash := rfl
@[simp] theorem State.respond_dfcmHash (data : Word) : (s.respond data).dfcmHash = s.dfcmHash := rfl
@[simp] theorem State.respond_prior (data : Word) : (s.respond data).prior = s.prior := rfl
@[simp] theorem State.respond_mode (data : Word) : (s.respond data).mode = s.mode := rfl
@[simp] theorem State.respond_half (data : Word) : (s.respond data).half = s.half := rfl
@[simp] theorem State.respond_pend (data : Word) : (s.respond data).pend = s.pend := rfl
@[simp] theorem State.respond_vcount (data : Word) : (s.respond data).vcount = s.vcount := rfl
@[simp] theorem State.respond_pcount (data : Word) : (s.respond data).pcount = s.pcount := rfl
@[simp] theorem State.respond_hcount (data : Word) : (s.respond data).hcount = s.hcount := rfl
@[simp] theorem State.respond_errv (data : Word) : (s.respond data).errv = s.errv := rfl
@[simp] theorem State.respond_errcode (data : Word) : (s.respond data).errcode = s.errcode := rfl
@[simp] theorem State.respond_tf (data : Word) : (s.respond data).tf = s.tf := rfl
@[simp] theorem State.respond_td (data : Word) : (s.respond data).td = s.td := rfl
@[simp] theorem State.respond_hdrOut (data : Word) : (s.respond data).hdrOut = s.hdrOut := rfl
@[simp] theorem State.respond_payOut (data : Word) : (s.respond data).payOut = s.payOut := rfl
@[simp] theorem State.respond_hdrIn (data : Word) : (s.respond data).hdrIn = s.hdrIn := rfl
@[simp] theorem State.respond_payIn (data : Word) : (s.respond data).payIn = s.payIn := rfl
@[simp] theorem State.respond_cmds (data : Word) : (s.respond data).cmds = s.cmds.tail := rfl
@[simp] theorem State.respond_resps (data : Word) : (s.respond data).resps = s.resps ++ [⟨true, data⟩] := rfl
@[simp] theorem State.respond_draws (data : Word) : (s.respond data).draws = s.draws := rfl

/-! `State.reject` -/

@[simp] theorem State.reject_params : s.reject.params = s.params := rfl
@[simp] theorem State.reject_cfg : s.reject.cfg = s.cfg := rfl
@[simp] theorem State.reject_hargs : s.reject.hargs = s.hargs := rfl
@[simp] theorem State.reject_seed : s.reject.seed = s.seed := rfl
@[simp] theorem State.reject_fcmHash : s.reject.fcmHash = s.fcmHash := rfl
@[simp] theorem State.reject_dfcmHash : s.reject.dfcmHash = s.dfcmHash := rfl
@[simp] theorem State.reject_prior : s.reject.prior = s.prior := rfl
@[simp] theorem State.reject_mode : s.reject.mode = s.mode := rfl
@[simp] theorem State.reject_half : s.reject.half = s.half := rfl
@[simp] theorem State.reject_pend : s.reject.pend = s.pend := rfl
@[simp] theorem State.reject_vcount : s.reject.vcount = s.vcount := rfl
@[simp] theorem State.reject_pcount : s.reject.pcount = s.pcount := rfl
@[simp] theorem State.reject_hcount : s.reject.hcount = s.hcount := rfl
@[simp] theorem State.reject_errv : s.reject.errv = s.errv := rfl
@[simp] theorem State.reject_errcode : s.reject.errcode = s.errcode := rfl
@[simp] theorem State.reject_tf : s.reject.tf = s.tf := rfl
@[simp] theorem State.reject_td : s.reject.td = s.td := rfl
@[simp] theorem State.reject_hdrOut : s.reject.hdrOut = s.hdrOut := rfl
@[simp] theorem State.reject_payOut : s.reject.payOut = s.payOut := rfl
@[simp] theorem State.reject_hdrIn : s.reject.hdrIn = s.hdrIn := rfl
@[simp] theorem State.reject_payIn : s.reject.payIn = s.payIn := rfl
@[simp] theorem State.reject_cmds : s.reject.cmds = s.cmds.tail := rfl
@[simp] theorem State.reject_resps : s.reject.resps = s.resps ++ [⟨false, 0⟩] := rfl
@[simp] theorem State.reject_draws : s.reject.draws = s.draws := rfl

/-! `State.raise` -/

@[simp] theorem State.raise_params (cause : Cause) : (s.raise cause).params = s.params := rfl
@[simp] theorem State.raise_cfg (cause : Cause) : (s.raise cause).cfg = s.cfg := rfl
@[simp] theorem State.raise_hargs (cause : Cause) : (s.raise cause).hargs = s.hargs := rfl
@[simp] theorem State.raise_seed (cause : Cause) : (s.raise cause).seed = s.seed := rfl
@[simp] theorem State.raise_fcmHash (cause : Cause) : (s.raise cause).fcmHash = s.fcmHash := rfl
@[simp] theorem State.raise_dfcmHash (cause : Cause) : (s.raise cause).dfcmHash = s.dfcmHash := rfl
@[simp] theorem State.raise_prior (cause : Cause) : (s.raise cause).prior = s.prior := rfl
@[simp] theorem State.raise_mode (cause : Cause) : (s.raise cause).mode = s.mode := rfl
@[simp] theorem State.raise_half (cause : Cause) : (s.raise cause).half = s.half := rfl
@[simp] theorem State.raise_pend (cause : Cause) : (s.raise cause).pend = s.pend := rfl
@[simp] theorem State.raise_vcount (cause : Cause) : (s.raise cause).vcount = s.vcount := rfl
@[simp] theorem State.raise_pcount (cause : Cause) : (s.raise cause).pcount = s.pcount := rfl
@[simp] theorem State.raise_hcount (cause : Cause) : (s.raise cause).hcount = s.hcount := rfl
@[simp] theorem State.raise_errv (cause : Cause) : (s.raise cause).errv = true := rfl
@[simp] theorem State.raise_errcode (cause : Cause) :
    (s.raise cause).errcode = if s.errv then s.errcode else cause.code := rfl
@[simp] theorem State.raise_tf (cause : Cause) : (s.raise cause).tf = s.tf := rfl
@[simp] theorem State.raise_td (cause : Cause) : (s.raise cause).td = s.td := rfl
@[simp] theorem State.raise_hdrOut (cause : Cause) : (s.raise cause).hdrOut = s.hdrOut := rfl
@[simp] theorem State.raise_payOut (cause : Cause) : (s.raise cause).payOut = s.payOut := rfl
@[simp] theorem State.raise_hdrIn (cause : Cause) : (s.raise cause).hdrIn = s.hdrIn := rfl
@[simp] theorem State.raise_payIn (cause : Cause) : (s.raise cause).payIn = s.payIn := rfl
@[simp] theorem State.raise_cmds (cause : Cause) : (s.raise cause).cmds = s.cmds.tail := rfl
@[simp] theorem State.raise_resps (cause : Cause) : (s.raise cause).resps = s.resps ++ [⟨false, 0⟩] := rfl
@[simp] theorem State.raise_draws (cause : Cause) : (s.raise cause).draws = s.draws := rfl

/-! `State.clearError` -/

@[simp] theorem State.clearError_params : s.clearError.params = s.params := rfl
@[simp] theorem State.clearError_cfg : s.clearError.cfg = s.cfg := rfl
@[simp] theorem State.clearError_hargs : s.clearError.hargs = s.hargs := rfl
@[simp] theorem State.clearError_seed : s.clearError.seed = s.seed := rfl
@[simp] theorem State.clearError_fcmHash : s.clearError.fcmHash = s.fcmHash := rfl
@[simp] theorem State.clearError_dfcmHash : s.clearError.dfcmHash = s.dfcmHash := rfl
@[simp] theorem State.clearError_prior : s.clearError.prior = s.prior := rfl
@[simp] theorem State.clearError_mode : s.clearError.mode = .idle := rfl
@[simp] theorem State.clearError_half : s.clearError.half = false := rfl
@[simp] theorem State.clearError_pend : s.clearError.pend = 0 := rfl
@[simp] theorem State.clearError_vcount : s.clearError.vcount = s.vcount := rfl
@[simp] theorem State.clearError_pcount : s.clearError.pcount = s.pcount := rfl
@[simp] theorem State.clearError_hcount : s.clearError.hcount = s.hcount := rfl
@[simp] theorem State.clearError_errv : s.clearError.errv = false := rfl
@[simp] theorem State.clearError_errcode : s.clearError.errcode = 0 := rfl
@[simp] theorem State.clearError_tf : s.clearError.tf = s.tf := rfl
@[simp] theorem State.clearError_td : s.clearError.td = s.td := rfl
@[simp] theorem State.clearError_hdrOut : s.clearError.hdrOut = s.hdrOut := rfl
@[simp] theorem State.clearError_payOut : s.clearError.payOut = s.payOut := rfl
@[simp] theorem State.clearError_hdrIn : s.clearError.hdrIn = s.hdrIn := rfl
@[simp] theorem State.clearError_payIn : s.clearError.payIn = s.payIn := rfl
@[simp] theorem State.clearError_cmds : s.clearError.cmds = s.cmds := rfl
@[simp] theorem State.clearError_resps : s.clearError.resps = s.resps := rfl
@[simp] theorem State.clearError_draws : s.clearError.draws = s.draws := rfl

/-! `State.clearTables` -/

@[simp] theorem State.clearTables_params : s.clearTables.params = s.params := rfl
@[simp] theorem State.clearTables_cfg : s.clearTables.cfg = s.cfg := rfl
@[simp] theorem State.clearTables_hargs : s.clearTables.hargs = s.hargs := rfl
@[simp] theorem State.clearTables_seed : s.clearTables.seed = s.seed := rfl
@[simp] theorem State.clearTables_fcmHash : s.clearTables.fcmHash = s.fcmHash := rfl
@[simp] theorem State.clearTables_dfcmHash : s.clearTables.dfcmHash = s.dfcmHash := rfl
@[simp] theorem State.clearTables_prior : s.clearTables.prior = s.prior := rfl
@[simp] theorem State.clearTables_mode : s.clearTables.mode = s.mode := rfl
@[simp] theorem State.clearTables_half : s.clearTables.half = s.half := rfl
@[simp] theorem State.clearTables_pend : s.clearTables.pend = s.pend := rfl
@[simp] theorem State.clearTables_vcount : s.clearTables.vcount = s.vcount := rfl
@[simp] theorem State.clearTables_pcount : s.clearTables.pcount = s.pcount := rfl
@[simp] theorem State.clearTables_hcount : s.clearTables.hcount = s.hcount := rfl
@[simp] theorem State.clearTables_errv : s.clearTables.errv = s.errv := rfl
@[simp] theorem State.clearTables_errcode : s.clearTables.errcode = s.errcode := rfl
@[simp] theorem State.clearTables_tf : s.clearTables.tf = Ram.cleared := rfl
@[simp] theorem State.clearTables_td : s.clearTables.td = Ram.cleared := rfl
@[simp] theorem State.clearTables_hdrOut : s.clearTables.hdrOut = s.hdrOut := rfl
@[simp] theorem State.clearTables_payOut : s.clearTables.payOut = s.payOut := rfl
@[simp] theorem State.clearTables_hdrIn : s.clearTables.hdrIn = s.hdrIn := rfl
@[simp] theorem State.clearTables_payIn : s.clearTables.payIn = s.payIn := rfl
@[simp] theorem State.clearTables_cmds : s.clearTables.cmds = s.cmds := rfl
@[simp] theorem State.clearTables_resps : s.clearTables.resps = s.resps := rfl
@[simp] theorem State.clearTables_draws : s.clearTables.draws = s.draws := rfl

/-! `State.hdrPut` -/

@[simp] theorem State.hdrPut_params (b : Byte) : (s.hdrPut b).params = s.params := rfl
@[simp] theorem State.hdrPut_cfg (b : Byte) : (s.hdrPut b).cfg = s.cfg := rfl
@[simp] theorem State.hdrPut_hargs (b : Byte) : (s.hdrPut b).hargs = s.hargs := rfl
@[simp] theorem State.hdrPut_seed (b : Byte) : (s.hdrPut b).seed = s.seed := rfl
@[simp] theorem State.hdrPut_fcmHash (b : Byte) : (s.hdrPut b).fcmHash = s.fcmHash := rfl
@[simp] theorem State.hdrPut_dfcmHash (b : Byte) : (s.hdrPut b).dfcmHash = s.dfcmHash := rfl
@[simp] theorem State.hdrPut_prior (b : Byte) : (s.hdrPut b).prior = s.prior := rfl
@[simp] theorem State.hdrPut_mode (b : Byte) : (s.hdrPut b).mode = s.mode := rfl
@[simp] theorem State.hdrPut_half (b : Byte) : (s.hdrPut b).half = s.half := rfl
@[simp] theorem State.hdrPut_pend (b : Byte) : (s.hdrPut b).pend = s.pend := rfl
@[simp] theorem State.hdrPut_vcount (b : Byte) : (s.hdrPut b).vcount = s.vcount := rfl
@[simp] theorem State.hdrPut_pcount (b : Byte) : (s.hdrPut b).pcount = s.pcount := rfl
@[simp] theorem State.hdrPut_hcount (b : Byte) : (s.hdrPut b).hcount = s.hcount := rfl
@[simp] theorem State.hdrPut_errv (b : Byte) : (s.hdrPut b).errv = s.errv := rfl
@[simp] theorem State.hdrPut_errcode (b : Byte) : (s.hdrPut b).errcode = s.errcode := rfl
@[simp] theorem State.hdrPut_tf (b : Byte) : (s.hdrPut b).tf = s.tf := rfl
@[simp] theorem State.hdrPut_td (b : Byte) : (s.hdrPut b).td = s.td := rfl
@[simp] theorem State.hdrPut_hdrOut (b : Byte) : (s.hdrPut b).hdrOut = s.hdrOut ++ [b] := rfl
@[simp] theorem State.hdrPut_payOut (b : Byte) : (s.hdrPut b).payOut = s.payOut := rfl
@[simp] theorem State.hdrPut_hdrIn (b : Byte) : (s.hdrPut b).hdrIn = s.hdrIn := rfl
@[simp] theorem State.hdrPut_payIn (b : Byte) : (s.hdrPut b).payIn = s.payIn := rfl
@[simp] theorem State.hdrPut_cmds (b : Byte) : (s.hdrPut b).cmds = s.cmds := rfl
@[simp] theorem State.hdrPut_resps (b : Byte) : (s.hdrPut b).resps = s.resps := rfl
@[simp] theorem State.hdrPut_draws (b : Byte) : (s.hdrPut b).draws = s.draws := rfl

/-! `State.payPut` -/

@[simp] theorem State.payPut_params (bytes : List Byte) : (s.payPut bytes).params = s.params := rfl
@[simp] theorem State.payPut_cfg (bytes : List Byte) : (s.payPut bytes).cfg = s.cfg := rfl
@[simp] theorem State.payPut_hargs (bytes : List Byte) : (s.payPut bytes).hargs = s.hargs := rfl
@[simp] theorem State.payPut_seed (bytes : List Byte) : (s.payPut bytes).seed = s.seed := rfl
@[simp] theorem State.payPut_fcmHash (bytes : List Byte) : (s.payPut bytes).fcmHash = s.fcmHash := rfl
@[simp] theorem State.payPut_dfcmHash (bytes : List Byte) : (s.payPut bytes).dfcmHash = s.dfcmHash := rfl
@[simp] theorem State.payPut_prior (bytes : List Byte) : (s.payPut bytes).prior = s.prior := rfl
@[simp] theorem State.payPut_mode (bytes : List Byte) : (s.payPut bytes).mode = s.mode := rfl
@[simp] theorem State.payPut_half (bytes : List Byte) : (s.payPut bytes).half = s.half := rfl
@[simp] theorem State.payPut_pend (bytes : List Byte) : (s.payPut bytes).pend = s.pend := rfl
@[simp] theorem State.payPut_vcount (bytes : List Byte) : (s.payPut bytes).vcount = s.vcount := rfl
@[simp] theorem State.payPut_pcount (bytes : List Byte) : (s.payPut bytes).pcount = s.pcount := rfl
@[simp] theorem State.payPut_hcount (bytes : List Byte) : (s.payPut bytes).hcount = s.hcount := rfl
@[simp] theorem State.payPut_errv (bytes : List Byte) : (s.payPut bytes).errv = s.errv := rfl
@[simp] theorem State.payPut_errcode (bytes : List Byte) : (s.payPut bytes).errcode = s.errcode := rfl
@[simp] theorem State.payPut_tf (bytes : List Byte) : (s.payPut bytes).tf = s.tf := rfl
@[simp] theorem State.payPut_td (bytes : List Byte) : (s.payPut bytes).td = s.td := rfl
@[simp] theorem State.payPut_hdrOut (bytes : List Byte) : (s.payPut bytes).hdrOut = s.hdrOut := rfl
@[simp] theorem State.payPut_payOut (bytes : List Byte) : (s.payPut bytes).payOut = s.payOut ++ bytes := rfl
@[simp] theorem State.payPut_hdrIn (bytes : List Byte) : (s.payPut bytes).hdrIn = s.hdrIn := rfl
@[simp] theorem State.payPut_payIn (bytes : List Byte) : (s.payPut bytes).payIn = s.payIn := rfl
@[simp] theorem State.payPut_cmds (bytes : List Byte) : (s.payPut bytes).cmds = s.cmds := rfl
@[simp] theorem State.payPut_resps (bytes : List Byte) : (s.payPut bytes).resps = s.resps := rfl
@[simp] theorem State.payPut_draws (bytes : List Byte) : (s.payPut bytes).draws = s.draws := rfl

/-! `State.hdrDrop` -/

@[simp] theorem State.hdrDrop_params : s.hdrDrop.params = s.params := rfl
@[simp] theorem State.hdrDrop_cfg : s.hdrDrop.cfg = s.cfg := rfl
@[simp] theorem State.hdrDrop_hargs : s.hdrDrop.hargs = s.hargs := rfl
@[simp] theorem State.hdrDrop_seed : s.hdrDrop.seed = s.seed := rfl
@[simp] theorem State.hdrDrop_fcmHash : s.hdrDrop.fcmHash = s.fcmHash := rfl
@[simp] theorem State.hdrDrop_dfcmHash : s.hdrDrop.dfcmHash = s.dfcmHash := rfl
@[simp] theorem State.hdrDrop_prior : s.hdrDrop.prior = s.prior := rfl
@[simp] theorem State.hdrDrop_mode : s.hdrDrop.mode = s.mode := rfl
@[simp] theorem State.hdrDrop_half : s.hdrDrop.half = s.half := rfl
@[simp] theorem State.hdrDrop_pend : s.hdrDrop.pend = s.pend := rfl
@[simp] theorem State.hdrDrop_vcount : s.hdrDrop.vcount = s.vcount := rfl
@[simp] theorem State.hdrDrop_pcount : s.hdrDrop.pcount = s.pcount := rfl
@[simp] theorem State.hdrDrop_hcount : s.hdrDrop.hcount = s.hcount := rfl
@[simp] theorem State.hdrDrop_errv : s.hdrDrop.errv = s.errv := rfl
@[simp] theorem State.hdrDrop_errcode : s.hdrDrop.errcode = s.errcode := rfl
@[simp] theorem State.hdrDrop_tf : s.hdrDrop.tf = s.tf := rfl
@[simp] theorem State.hdrDrop_td : s.hdrDrop.td = s.td := rfl
@[simp] theorem State.hdrDrop_hdrOut : s.hdrDrop.hdrOut = s.hdrOut := rfl
@[simp] theorem State.hdrDrop_payOut : s.hdrDrop.payOut = s.payOut := rfl
@[simp] theorem State.hdrDrop_hdrIn : s.hdrDrop.hdrIn = s.hdrIn.drop 1 := rfl
@[simp] theorem State.hdrDrop_payIn : s.hdrDrop.payIn = s.payIn := rfl
@[simp] theorem State.hdrDrop_cmds : s.hdrDrop.cmds = s.cmds := rfl
@[simp] theorem State.hdrDrop_resps : s.hdrDrop.resps = s.resps := rfl
@[simp] theorem State.hdrDrop_draws : s.hdrDrop.draws = s.draws := rfl

/-! `State.payDrop` -/

@[simp] theorem State.payDrop_params (k : Nat) : (s.payDrop k).params = s.params := rfl
@[simp] theorem State.payDrop_cfg (k : Nat) : (s.payDrop k).cfg = s.cfg := rfl
@[simp] theorem State.payDrop_hargs (k : Nat) : (s.payDrop k).hargs = s.hargs := rfl
@[simp] theorem State.payDrop_seed (k : Nat) : (s.payDrop k).seed = s.seed := rfl
@[simp] theorem State.payDrop_fcmHash (k : Nat) : (s.payDrop k).fcmHash = s.fcmHash := rfl
@[simp] theorem State.payDrop_dfcmHash (k : Nat) : (s.payDrop k).dfcmHash = s.dfcmHash := rfl
@[simp] theorem State.payDrop_prior (k : Nat) : (s.payDrop k).prior = s.prior := rfl
@[simp] theorem State.payDrop_mode (k : Nat) : (s.payDrop k).mode = s.mode := rfl
@[simp] theorem State.payDrop_half (k : Nat) : (s.payDrop k).half = s.half := rfl
@[simp] theorem State.payDrop_pend (k : Nat) : (s.payDrop k).pend = s.pend := rfl
@[simp] theorem State.payDrop_vcount (k : Nat) : (s.payDrop k).vcount = s.vcount := rfl
@[simp] theorem State.payDrop_pcount (k : Nat) : (s.payDrop k).pcount = s.pcount := rfl
@[simp] theorem State.payDrop_hcount (k : Nat) : (s.payDrop k).hcount = s.hcount := rfl
@[simp] theorem State.payDrop_errv (k : Nat) : (s.payDrop k).errv = s.errv := rfl
@[simp] theorem State.payDrop_errcode (k : Nat) : (s.payDrop k).errcode = s.errcode := rfl
@[simp] theorem State.payDrop_tf (k : Nat) : (s.payDrop k).tf = s.tf := rfl
@[simp] theorem State.payDrop_td (k : Nat) : (s.payDrop k).td = s.td := rfl
@[simp] theorem State.payDrop_hdrOut (k : Nat) : (s.payDrop k).hdrOut = s.hdrOut := rfl
@[simp] theorem State.payDrop_payOut (k : Nat) : (s.payDrop k).payOut = s.payOut := rfl
@[simp] theorem State.payDrop_hdrIn (k : Nat) : (s.payDrop k).hdrIn = s.hdrIn := rfl
@[simp] theorem State.payDrop_payIn (k : Nat) : (s.payDrop k).payIn = s.payIn.drop k := rfl
@[simp] theorem State.payDrop_cmds (k : Nat) : (s.payDrop k).cmds = s.cmds := rfl
@[simp] theorem State.payDrop_resps (k : Nat) : (s.payDrop k).resps = s.resps := rfl
@[simp] theorem State.payDrop_draws (k : Nat) : (s.payDrop k).draws = s.draws := rfl

/-! `State.restartPredictor` -/

@[simp] theorem State.restartPredictor_params (w : Width) : (s.restartPredictor w).params = s.params := rfl
@[simp] theorem State.restartPredictor_cfg (w : Width) : (s.restartPredictor w).cfg = s.cfg := rfl
@[simp] theorem State.restartPredictor_hargs (w : Width) : (s.restartPredictor w).hargs = s.hargs := rfl
@[simp] theorem State.restartPredictor_seed (w : Width) : (s.restartPredictor w).seed = s.seed := rfl
@[simp] theorem State.restartPredictor_fcmHash (w : Width) : (s.restartPredictor w).fcmHash = 0 := rfl
@[simp] theorem State.restartPredictor_dfcmHash (w : Width) : (s.restartPredictor w).dfcmHash = 0 := rfl
@[simp] theorem State.restartPredictor_prior (w : Width) :
    (s.restartPredictor w).prior = BitVec.ofNat 64 (s.seed.toNat % 2 ^ widthBits w) := rfl
@[simp] theorem State.restartPredictor_mode (w : Width) : (s.restartPredictor w).mode = s.mode := rfl
@[simp] theorem State.restartPredictor_half (w : Width) : (s.restartPredictor w).half = s.half := rfl
@[simp] theorem State.restartPredictor_pend (w : Width) : (s.restartPredictor w).pend = s.pend := rfl
@[simp] theorem State.restartPredictor_vcount (w : Width) : (s.restartPredictor w).vcount = s.vcount := rfl
@[simp] theorem State.restartPredictor_pcount (w : Width) : (s.restartPredictor w).pcount = s.pcount := rfl
@[simp] theorem State.restartPredictor_hcount (w : Width) : (s.restartPredictor w).hcount = s.hcount := rfl
@[simp] theorem State.restartPredictor_errv (w : Width) : (s.restartPredictor w).errv = s.errv := rfl
@[simp] theorem State.restartPredictor_errcode (w : Width) : (s.restartPredictor w).errcode = s.errcode := rfl
@[simp] theorem State.restartPredictor_tf (w : Width) : (s.restartPredictor w).tf = s.tf := rfl
@[simp] theorem State.restartPredictor_td (w : Width) : (s.restartPredictor w).td = s.td := rfl
@[simp] theorem State.restartPredictor_hdrOut (w : Width) : (s.restartPredictor w).hdrOut = s.hdrOut := rfl
@[simp] theorem State.restartPredictor_payOut (w : Width) : (s.restartPredictor w).payOut = s.payOut := rfl
@[simp] theorem State.restartPredictor_hdrIn (w : Width) : (s.restartPredictor w).hdrIn = s.hdrIn := rfl
@[simp] theorem State.restartPredictor_payIn (w : Width) : (s.restartPredictor w).payIn = s.payIn := rfl
@[simp] theorem State.restartPredictor_cmds (w : Width) : (s.restartPredictor w).cmds = s.cmds := rfl
@[simp] theorem State.restartPredictor_resps (w : Width) : (s.restartPredictor w).resps = s.resps := rfl
@[simp] theorem State.restartPredictor_draws (w : Width) : (s.restartPredictor w).draws = s.draws := rfl

/-! `State.configure` -/

@[simp] theorem State.configure_params (w : Width) (f d : BitVec 5) :
    (s.configure w f d).params = s.params := rfl
@[simp] theorem State.configure_cfg (w : Width) (f d : BitVec 5) : (s.configure w f d).cfg = ⟨w, f, d⟩ := rfl
@[simp] theorem State.configure_hargs (w : Width) (f d : BitVec 5) :
    (s.configure w f d).hargs = s.hargs := rfl
@[simp] theorem State.configure_seed (w : Width) (f d : BitVec 5) : (s.configure w f d).seed = s.seed := rfl
@[simp] theorem State.configure_fcmHash (w : Width) (f d : BitVec 5) : (s.configure w f d).fcmHash = 0 := rfl
@[simp] theorem State.configure_dfcmHash (w : Width) (f d : BitVec 5) :
    (s.configure w f d).dfcmHash = 0 := rfl
@[simp] theorem State.configure_prior (w : Width) (f d : BitVec 5) :
    (s.configure w f d).prior = BitVec.ofNat 64 (s.seed.toNat % 2 ^ widthBits w) := rfl
@[simp] theorem State.configure_mode (w : Width) (f d : BitVec 5) : (s.configure w f d).mode = s.mode := rfl
@[simp] theorem State.configure_half (w : Width) (f d : BitVec 5) : (s.configure w f d).half = s.half := rfl
@[simp] theorem State.configure_pend (w : Width) (f d : BitVec 5) : (s.configure w f d).pend = s.pend := rfl
@[simp] theorem State.configure_vcount (w : Width) (f d : BitVec 5) :
    (s.configure w f d).vcount = s.vcount := rfl
@[simp] theorem State.configure_pcount (w : Width) (f d : BitVec 5) :
    (s.configure w f d).pcount = s.pcount := rfl
@[simp] theorem State.configure_hcount (w : Width) (f d : BitVec 5) :
    (s.configure w f d).hcount = s.hcount := rfl
@[simp] theorem State.configure_errv (w : Width) (f d : BitVec 5) : (s.configure w f d).errv = s.errv := rfl
@[simp] theorem State.configure_errcode (w : Width) (f d : BitVec 5) :
    (s.configure w f d).errcode = s.errcode := rfl
@[simp] theorem State.configure_tf (w : Width) (f d : BitVec 5) : (s.configure w f d).tf = s.tf := rfl
@[simp] theorem State.configure_td (w : Width) (f d : BitVec 5) : (s.configure w f d).td = s.td := rfl
@[simp] theorem State.configure_hdrOut (w : Width) (f d : BitVec 5) :
    (s.configure w f d).hdrOut = s.hdrOut := rfl
@[simp] theorem State.configure_payOut (w : Width) (f d : BitVec 5) :
    (s.configure w f d).payOut = s.payOut := rfl
@[simp] theorem State.configure_hdrIn (w : Width) (f d : BitVec 5) :
    (s.configure w f d).hdrIn = s.hdrIn := rfl
@[simp] theorem State.configure_payIn (w : Width) (f d : BitVec 5) :
    (s.configure w f d).payIn = s.payIn := rfl
@[simp] theorem State.configure_cmds (w : Width) (f d : BitVec 5) : (s.configure w f d).cmds = s.cmds := rfl
@[simp] theorem State.configure_resps (w : Width) (f d : BitVec 5) :
    (s.configure w f d).resps = s.resps := rfl
@[simp] theorem State.configure_draws (w : Width) (f d : BitVec 5) :
    (s.configure w f d).draws = s.draws := rfl

/-! `State.advance` -/

@[simp] theorem State.advance_params (v : Nat) : (s.advance v).params = s.params := rfl
@[simp] theorem State.advance_cfg (v : Nat) : (s.advance v).cfg = s.cfg := rfl
@[simp] theorem State.advance_hargs (v : Nat) : (s.advance v).hargs = s.hargs := rfl
@[simp] theorem State.advance_seed (v : Nat) : (s.advance v).seed = s.seed := rfl
@[simp] theorem State.advance_fcmHash (v : Nat) :
    (s.advance v).fcmHash = BitVec.ofNat 23 (s.nextFcmHash v) := rfl
@[simp] theorem State.advance_dfcmHash (v : Nat) :
    (s.advance v).dfcmHash = BitVec.ofNat 23 (s.nextDfcmHash (s.delta v)) := rfl
@[simp] theorem State.advance_prior (v : Nat) : (s.advance v).prior = BitVec.ofNat 64 v := rfl
@[simp] theorem State.advance_mode (v : Nat) : (s.advance v).mode = s.mode := rfl
@[simp] theorem State.advance_half (v : Nat) : (s.advance v).half = s.half := rfl
@[simp] theorem State.advance_pend (v : Nat) : (s.advance v).pend = s.pend := rfl
@[simp] theorem State.advance_vcount (v : Nat) : (s.advance v).vcount = s.vcount := rfl
@[simp] theorem State.advance_pcount (v : Nat) : (s.advance v).pcount = s.pcount := rfl
@[simp] theorem State.advance_hcount (v : Nat) : (s.advance v).hcount = s.hcount := rfl
@[simp] theorem State.advance_errv (v : Nat) : (s.advance v).errv = s.errv := rfl
@[simp] theorem State.advance_errcode (v : Nat) : (s.advance v).errcode = s.errcode := rfl
@[simp] theorem State.advance_tf (v : Nat) :
    (s.advance v).tf = s.tf.write s.fcmHash.toNat (BitVec.ofNat 64 v) := rfl
@[simp] theorem State.advance_td (v : Nat) :
    (s.advance v).td = s.td.write s.dfcmHash.toNat (BitVec.ofNat 64 (s.delta v)) := rfl
@[simp] theorem State.advance_hdrOut (v : Nat) : (s.advance v).hdrOut = s.hdrOut := rfl
@[simp] theorem State.advance_payOut (v : Nat) : (s.advance v).payOut = s.payOut := rfl
@[simp] theorem State.advance_hdrIn (v : Nat) : (s.advance v).hdrIn = s.hdrIn := rfl
@[simp] theorem State.advance_payIn (v : Nat) : (s.advance v).payIn = s.payIn := rfl
@[simp] theorem State.advance_cmds (v : Nat) : (s.advance v).cmds = s.cmds := rfl
@[simp] theorem State.advance_resps (v : Nat) : (s.advance v).resps = s.resps := rfl
@[simp] theorem State.advance_draws (v : Nat) : (s.advance v).draws = s.draws := rfl

/-! `State.openCall` -/

@[simp] theorem State.openCall_params (mode : Mode) : (s.openCall mode).params = s.params := rfl
@[simp] theorem State.openCall_cfg (mode : Mode) : (s.openCall mode).cfg = s.cfg := rfl
@[simp] theorem State.openCall_hargs (mode : Mode) : (s.openCall mode).hargs = s.hargs := rfl
@[simp] theorem State.openCall_seed (mode : Mode) : (s.openCall mode).seed = s.seed := rfl
@[simp] theorem State.openCall_fcmHash (mode : Mode) : (s.openCall mode).fcmHash = s.fcmHash := rfl
@[simp] theorem State.openCall_dfcmHash (mode : Mode) : (s.openCall mode).dfcmHash = s.dfcmHash := rfl
@[simp] theorem State.openCall_prior (mode : Mode) : (s.openCall mode).prior = s.prior := rfl
@[simp] theorem State.openCall_mode (mode : Mode) : (s.openCall mode).mode = mode := rfl
@[simp] theorem State.openCall_half (mode : Mode) : (s.openCall mode).half = false := rfl
@[simp] theorem State.openCall_pend (mode : Mode) : (s.openCall mode).pend = 0 := rfl
@[simp] theorem State.openCall_vcount (mode : Mode) : (s.openCall mode).vcount = 0 := rfl
@[simp] theorem State.openCall_pcount (mode : Mode) : (s.openCall mode).pcount = 0 := rfl
@[simp] theorem State.openCall_hcount (mode : Mode) : (s.openCall mode).hcount = 0 := rfl
@[simp] theorem State.openCall_errv (mode : Mode) : (s.openCall mode).errv = s.errv := rfl
@[simp] theorem State.openCall_errcode (mode : Mode) : (s.openCall mode).errcode = s.errcode := rfl
@[simp] theorem State.openCall_tf (mode : Mode) : (s.openCall mode).tf = s.tf := rfl
@[simp] theorem State.openCall_td (mode : Mode) : (s.openCall mode).td = s.td := rfl
@[simp] theorem State.openCall_hdrOut (mode : Mode) : (s.openCall mode).hdrOut = s.hdrOut := rfl
@[simp] theorem State.openCall_payOut (mode : Mode) : (s.openCall mode).payOut = s.payOut := rfl
@[simp] theorem State.openCall_hdrIn (mode : Mode) : (s.openCall mode).hdrIn = s.hdrIn := rfl
@[simp] theorem State.openCall_payIn (mode : Mode) : (s.openCall mode).payIn = s.payIn := rfl
@[simp] theorem State.openCall_cmds (mode : Mode) : (s.openCall mode).cmds = s.cmds := rfl
@[simp] theorem State.openCall_resps (mode : Mode) : (s.openCall mode).resps = s.resps := rfl
@[simp] theorem State.openCall_draws (mode : Mode) : (s.openCall mode).draws = s.draws := rfl

/-! `State.packEnc` -/

@[simp] theorem State.packEnc_params (field : BitVec 4) : (s.packEnc field).params = s.params := by
  unfold State.packEnc; (repeat' split) <;> rfl
@[simp] theorem State.packEnc_cfg (field : BitVec 4) : (s.packEnc field).cfg = s.cfg := by
  unfold State.packEnc; (repeat' split) <;> rfl
@[simp] theorem State.packEnc_hargs (field : BitVec 4) : (s.packEnc field).hargs = s.hargs := by
  unfold State.packEnc; (repeat' split) <;> rfl
@[simp] theorem State.packEnc_seed (field : BitVec 4) : (s.packEnc field).seed = s.seed := by
  unfold State.packEnc; (repeat' split) <;> rfl
@[simp] theorem State.packEnc_fcmHash (field : BitVec 4) : (s.packEnc field).fcmHash = s.fcmHash := by
  unfold State.packEnc; (repeat' split) <;> rfl
@[simp] theorem State.packEnc_dfcmHash (field : BitVec 4) : (s.packEnc field).dfcmHash = s.dfcmHash := by
  unfold State.packEnc; (repeat' split) <;> rfl
@[simp] theorem State.packEnc_prior (field : BitVec 4) : (s.packEnc field).prior = s.prior := by
  unfold State.packEnc; (repeat' split) <;> rfl
@[simp] theorem State.packEnc_mode (field : BitVec 4) : (s.packEnc field).mode = s.mode := by
  unfold State.packEnc; (repeat' split) <;> rfl
@[simp] theorem State.packEnc_half (field : BitVec 4) : (s.packEnc field).half = !s.half := by
  unfold State.packEnc; (repeat' split) <;> simp_all
@[simp] theorem State.packEnc_pend (field : BitVec 4) :
    (s.packEnc field).pend = if s.half then 0 else field := by
  unfold State.packEnc; (repeat' split) <;> simp_all
@[simp] theorem State.packEnc_vcount (field : BitVec 4) : (s.packEnc field).vcount = s.vcount := by
  unfold State.packEnc; (repeat' split) <;> rfl
@[simp] theorem State.packEnc_pcount (field : BitVec 4) : (s.packEnc field).pcount = s.pcount := by
  unfold State.packEnc; (repeat' split) <;> rfl
@[simp] theorem State.packEnc_hcount (field : BitVec 4) :
    (s.packEnc field).hcount = if s.half then s.hcount + 1 else s.hcount := by
  unfold State.packEnc; (repeat' split) <;> simp_all
@[simp] theorem State.packEnc_errv (field : BitVec 4) : (s.packEnc field).errv = s.errv := by
  unfold State.packEnc; (repeat' split) <;> rfl
@[simp] theorem State.packEnc_errcode (field : BitVec 4) : (s.packEnc field).errcode = s.errcode := by
  unfold State.packEnc; (repeat' split) <;> rfl
@[simp] theorem State.packEnc_tf (field : BitVec 4) : (s.packEnc field).tf = s.tf := by
  unfold State.packEnc; (repeat' split) <;> rfl
@[simp] theorem State.packEnc_td (field : BitVec 4) : (s.packEnc field).td = s.td := by
  unfold State.packEnc; (repeat' split) <;> rfl
@[simp] theorem State.packEnc_hdrOut (field : BitVec 4) :
    (s.packEnc field).hdrOut = if s.half ∧ s.mode = .enc then s.hdrOut ++ [headerByte s.pend field] else s.hdrOut := by
  unfold State.packEnc; (repeat' split) <;> simp_all
@[simp] theorem State.packEnc_payOut (field : BitVec 4) : (s.packEnc field).payOut = s.payOut := by
  unfold State.packEnc; (repeat' split) <;> rfl
@[simp] theorem State.packEnc_hdrIn (field : BitVec 4) : (s.packEnc field).hdrIn = s.hdrIn := by
  unfold State.packEnc; (repeat' split) <;> rfl
@[simp] theorem State.packEnc_payIn (field : BitVec 4) : (s.packEnc field).payIn = s.payIn := by
  unfold State.packEnc; (repeat' split) <;> rfl
@[simp] theorem State.packEnc_cmds (field : BitVec 4) : (s.packEnc field).cmds = s.cmds := by
  unfold State.packEnc; (repeat' split) <;> rfl
@[simp] theorem State.packEnc_resps (field : BitVec 4) : (s.packEnc field).resps = s.resps := by
  unfold State.packEnc; (repeat' split) <;> rfl
@[simp] theorem State.packEnc_draws (field : BitVec 4) : (s.packEnc field).draws = s.draws := by
  unfold State.packEnc; (repeat' split) <;> rfl

/-! `State.countValue` -/

@[simp] theorem State.countValue_params (k : Nat) : (s.countValue k).params = s.params := rfl
@[simp] theorem State.countValue_cfg (k : Nat) : (s.countValue k).cfg = s.cfg := rfl
@[simp] theorem State.countValue_hargs (k : Nat) : (s.countValue k).hargs = s.hargs := rfl
@[simp] theorem State.countValue_seed (k : Nat) : (s.countValue k).seed = s.seed := rfl
@[simp] theorem State.countValue_fcmHash (k : Nat) : (s.countValue k).fcmHash = s.fcmHash := rfl
@[simp] theorem State.countValue_dfcmHash (k : Nat) : (s.countValue k).dfcmHash = s.dfcmHash := rfl
@[simp] theorem State.countValue_prior (k : Nat) : (s.countValue k).prior = s.prior := rfl
@[simp] theorem State.countValue_mode (k : Nat) : (s.countValue k).mode = s.mode := rfl
@[simp] theorem State.countValue_half (k : Nat) : (s.countValue k).half = s.half := rfl
@[simp] theorem State.countValue_pend (k : Nat) : (s.countValue k).pend = s.pend := rfl
@[simp] theorem State.countValue_vcount (k : Nat) : (s.countValue k).vcount = s.vcount + 1 := rfl
@[simp] theorem State.countValue_pcount (k : Nat) :
    (s.countValue k).pcount = s.pcount + BitVec.ofNat 64 k := rfl
@[simp] theorem State.countValue_hcount (k : Nat) : (s.countValue k).hcount = s.hcount := rfl
@[simp] theorem State.countValue_errv (k : Nat) : (s.countValue k).errv = s.errv := rfl
@[simp] theorem State.countValue_errcode (k : Nat) : (s.countValue k).errcode = s.errcode := rfl
@[simp] theorem State.countValue_tf (k : Nat) : (s.countValue k).tf = s.tf := rfl
@[simp] theorem State.countValue_td (k : Nat) : (s.countValue k).td = s.td := rfl
@[simp] theorem State.countValue_hdrOut (k : Nat) : (s.countValue k).hdrOut = s.hdrOut := rfl
@[simp] theorem State.countValue_payOut (k : Nat) : (s.countValue k).payOut = s.payOut := rfl
@[simp] theorem State.countValue_hdrIn (k : Nat) : (s.countValue k).hdrIn = s.hdrIn := rfl
@[simp] theorem State.countValue_payIn (k : Nat) : (s.countValue k).payIn = s.payIn := rfl
@[simp] theorem State.countValue_cmds (k : Nat) : (s.countValue k).cmds = s.cmds := rfl
@[simp] theorem State.countValue_resps (k : Nat) : (s.countValue k).resps = s.resps := rfl
@[simp] theorem State.countValue_draws (k : Nat) : (s.countValue k).draws = s.draws := rfl

/-! `State.emitPayload` -/

@[simp] theorem State.emitPayload_params (bytes : List Byte) : (s.emitPayload bytes).params = s.params := by
  unfold State.emitPayload; (repeat' split) <;> rfl
@[simp] theorem State.emitPayload_cfg (bytes : List Byte) : (s.emitPayload bytes).cfg = s.cfg := by
  unfold State.emitPayload; (repeat' split) <;> rfl
@[simp] theorem State.emitPayload_hargs (bytes : List Byte) : (s.emitPayload bytes).hargs = s.hargs := by
  unfold State.emitPayload; (repeat' split) <;> rfl
@[simp] theorem State.emitPayload_seed (bytes : List Byte) : (s.emitPayload bytes).seed = s.seed := by
  unfold State.emitPayload; (repeat' split) <;> rfl
@[simp] theorem State.emitPayload_fcmHash (bytes : List Byte) :
    (s.emitPayload bytes).fcmHash = s.fcmHash := by
  unfold State.emitPayload; (repeat' split) <;> rfl
@[simp] theorem State.emitPayload_dfcmHash (bytes : List Byte) :
    (s.emitPayload bytes).dfcmHash = s.dfcmHash := by
  unfold State.emitPayload; (repeat' split) <;> rfl
@[simp] theorem State.emitPayload_prior (bytes : List Byte) : (s.emitPayload bytes).prior = s.prior := by
  unfold State.emitPayload; (repeat' split) <;> rfl
@[simp] theorem State.emitPayload_mode (bytes : List Byte) : (s.emitPayload bytes).mode = s.mode := by
  unfold State.emitPayload; (repeat' split) <;> rfl
@[simp] theorem State.emitPayload_half (bytes : List Byte) : (s.emitPayload bytes).half = s.half := by
  unfold State.emitPayload; (repeat' split) <;> rfl
@[simp] theorem State.emitPayload_pend (bytes : List Byte) : (s.emitPayload bytes).pend = s.pend := by
  unfold State.emitPayload; (repeat' split) <;> rfl
@[simp] theorem State.emitPayload_vcount (bytes : List Byte) : (s.emitPayload bytes).vcount = s.vcount := by
  unfold State.emitPayload; (repeat' split) <;> rfl
@[simp] theorem State.emitPayload_pcount (bytes : List Byte) : (s.emitPayload bytes).pcount = s.pcount := by
  unfold State.emitPayload; (repeat' split) <;> rfl
@[simp] theorem State.emitPayload_hcount (bytes : List Byte) : (s.emitPayload bytes).hcount = s.hcount := by
  unfold State.emitPayload; (repeat' split) <;> rfl
@[simp] theorem State.emitPayload_errv (bytes : List Byte) : (s.emitPayload bytes).errv = s.errv := by
  unfold State.emitPayload; (repeat' split) <;> rfl
@[simp] theorem State.emitPayload_errcode (bytes : List Byte) :
    (s.emitPayload bytes).errcode = s.errcode := by
  unfold State.emitPayload; (repeat' split) <;> rfl
@[simp] theorem State.emitPayload_tf (bytes : List Byte) : (s.emitPayload bytes).tf = s.tf := by
  unfold State.emitPayload; (repeat' split) <;> rfl
@[simp] theorem State.emitPayload_td (bytes : List Byte) : (s.emitPayload bytes).td = s.td := by
  unfold State.emitPayload; (repeat' split) <;> rfl
@[simp] theorem State.emitPayload_hdrOut (bytes : List Byte) : (s.emitPayload bytes).hdrOut = s.hdrOut := by
  unfold State.emitPayload; (repeat' split) <;> rfl
@[simp] theorem State.emitPayload_payOut (bytes : List Byte) :
    (s.emitPayload bytes).payOut = if s.mode = .enc then s.payOut ++ bytes else s.payOut := by
  unfold State.emitPayload; (repeat' split) <;> simp_all
@[simp] theorem State.emitPayload_hdrIn (bytes : List Byte) : (s.emitPayload bytes).hdrIn = s.hdrIn := by
  unfold State.emitPayload; (repeat' split) <;> rfl
@[simp] theorem State.emitPayload_payIn (bytes : List Byte) : (s.emitPayload bytes).payIn = s.payIn := by
  unfold State.emitPayload; (repeat' split) <;> rfl
@[simp] theorem State.emitPayload_cmds (bytes : List Byte) : (s.emitPayload bytes).cmds = s.cmds := by
  unfold State.emitPayload; (repeat' split) <;> rfl
@[simp] theorem State.emitPayload_resps (bytes : List Byte) : (s.emitPayload bytes).resps = s.resps := by
  unfold State.emitPayload; (repeat' split) <;> rfl
@[simp] theorem State.emitPayload_draws (bytes : List Byte) : (s.emitPayload bytes).draws = s.draws := by
  unfold State.emitPayload; (repeat' split) <;> rfl

/-! `State.unpackDec` -/

@[simp] theorem State.unpackDec_params (source : Option Byte) : (s.unpackDec source).params = s.params := by
  cases source <;> rfl
@[simp] theorem State.unpackDec_cfg (source : Option Byte) : (s.unpackDec source).cfg = s.cfg := by
  cases source <;> rfl
@[simp] theorem State.unpackDec_hargs (source : Option Byte) : (s.unpackDec source).hargs = s.hargs := by
  cases source <;> rfl
@[simp] theorem State.unpackDec_seed (source : Option Byte) : (s.unpackDec source).seed = s.seed := by
  cases source <;> rfl
@[simp] theorem State.unpackDec_fcmHash (source : Option Byte) :
    (s.unpackDec source).fcmHash = s.fcmHash := by
  cases source <;> rfl
@[simp] theorem State.unpackDec_dfcmHash (source : Option Byte) :
    (s.unpackDec source).dfcmHash = s.dfcmHash := by
  cases source <;> rfl
@[simp] theorem State.unpackDec_prior (source : Option Byte) : (s.unpackDec source).prior = s.prior := by
  cases source <;> rfl
@[simp] theorem State.unpackDec_mode (source : Option Byte) : (s.unpackDec source).mode = s.mode := by
  cases source <;> rfl
@[simp] theorem State.unpackDec_vcount (source : Option Byte) : (s.unpackDec source).vcount = s.vcount := by
  cases source <;> rfl
@[simp] theorem State.unpackDec_pcount (source : Option Byte) : (s.unpackDec source).pcount = s.pcount := by
  cases source <;> rfl
@[simp] theorem State.unpackDec_errv (source : Option Byte) : (s.unpackDec source).errv = s.errv := by
  cases source <;> rfl
@[simp] theorem State.unpackDec_errcode (source : Option Byte) :
    (s.unpackDec source).errcode = s.errcode := by
  cases source <;> rfl
@[simp] theorem State.unpackDec_tf (source : Option Byte) : (s.unpackDec source).tf = s.tf := by
  cases source <;> rfl
@[simp] theorem State.unpackDec_td (source : Option Byte) : (s.unpackDec source).td = s.td := by
  cases source <;> rfl
@[simp] theorem State.unpackDec_hdrOut (source : Option Byte) : (s.unpackDec source).hdrOut = s.hdrOut := by
  cases source <;> rfl
@[simp] theorem State.unpackDec_payOut (source : Option Byte) : (s.unpackDec source).payOut = s.payOut := by
  cases source <;> rfl
@[simp] theorem State.unpackDec_payIn (source : Option Byte) : (s.unpackDec source).payIn = s.payIn := by
  cases source <;> rfl
@[simp] theorem State.unpackDec_cmds (source : Option Byte) : (s.unpackDec source).cmds = s.cmds := by
  cases source <;> rfl
@[simp] theorem State.unpackDec_resps (source : Option Byte) : (s.unpackDec source).resps = s.resps := by
  cases source <;> rfl
@[simp] theorem State.unpackDec_draws (source : Option Byte) : (s.unpackDec source).draws = s.draws := by
  cases source <;> rfl
@[simp] theorem State.unpackDec_some_hdrIn (b : Byte) : (s.unpackDec (some b)).hdrIn = s.hdrIn.drop 1 := rfl
@[simp] theorem State.unpackDec_none_hdrIn : (s.unpackDec none).hdrIn = s.hdrIn := rfl
@[simp] theorem State.unpackDec_some_hcount (b : Byte) : (s.unpackDec (some b)).hcount = s.hcount + 1 := rfl
@[simp] theorem State.unpackDec_none_hcount : (s.unpackDec none).hcount = s.hcount := rfl
@[simp] theorem State.unpackDec_some_half (b : Byte) : (s.unpackDec (some b)).half = true := rfl
@[simp] theorem State.unpackDec_none_half : (s.unpackDec none).half = false := rfl
@[simp] theorem State.unpackDec_some_pend (b : Byte) : (s.unpackDec (some b)).pend = highField b := rfl
@[simp] theorem State.unpackDec_none_pend : (s.unpackDec none).pend = 0 := rfl

/-! `State.flushHeader` -/

@[simp] theorem State.flushHeader_params : s.flushHeader.params = s.params := by
  unfold State.flushHeader; (repeat' split) <;> rfl
@[simp] theorem State.flushHeader_cfg : s.flushHeader.cfg = s.cfg := by
  unfold State.flushHeader; (repeat' split) <;> rfl
@[simp] theorem State.flushHeader_hargs : s.flushHeader.hargs = s.hargs := by
  unfold State.flushHeader; (repeat' split) <;> rfl
@[simp] theorem State.flushHeader_seed : s.flushHeader.seed = s.seed := by
  unfold State.flushHeader; (repeat' split) <;> rfl
@[simp] theorem State.flushHeader_fcmHash : s.flushHeader.fcmHash = s.fcmHash := by
  unfold State.flushHeader; (repeat' split) <;> rfl
@[simp] theorem State.flushHeader_dfcmHash : s.flushHeader.dfcmHash = s.dfcmHash := by
  unfold State.flushHeader; (repeat' split) <;> rfl
@[simp] theorem State.flushHeader_prior : s.flushHeader.prior = s.prior := by
  unfold State.flushHeader; (repeat' split) <;> rfl
@[simp] theorem State.flushHeader_mode : s.flushHeader.mode = s.mode := by
  unfold State.flushHeader; (repeat' split) <;> rfl
@[simp] theorem State.flushHeader_half : s.flushHeader.half = s.half := by
  unfold State.flushHeader; (repeat' split) <;> rfl
@[simp] theorem State.flushHeader_pend : s.flushHeader.pend = s.pend := by
  unfold State.flushHeader; (repeat' split) <;> rfl
@[simp] theorem State.flushHeader_vcount : s.flushHeader.vcount = s.vcount := by
  unfold State.flushHeader; (repeat' split) <;> rfl
@[simp] theorem State.flushHeader_pcount : s.flushHeader.pcount = s.pcount := by
  unfold State.flushHeader; (repeat' split) <;> rfl
@[simp] theorem State.flushHeader_hcount :
    s.flushHeader.hcount = if s.half ∧ (s.mode = .enc ∨ s.mode = .size) then s.hcount + 1 else s.hcount := by
  unfold State.flushHeader; (repeat' split) <;> simp_all
@[simp] theorem State.flushHeader_errv : s.flushHeader.errv = s.errv := by
  unfold State.flushHeader; (repeat' split) <;> rfl
@[simp] theorem State.flushHeader_errcode : s.flushHeader.errcode = s.errcode := by
  unfold State.flushHeader; (repeat' split) <;> rfl
@[simp] theorem State.flushHeader_tf : s.flushHeader.tf = s.tf := by
  unfold State.flushHeader; (repeat' split) <;> rfl
@[simp] theorem State.flushHeader_td : s.flushHeader.td = s.td := by
  unfold State.flushHeader; (repeat' split) <;> rfl
@[simp] theorem State.flushHeader_hdrOut :
    s.flushHeader.hdrOut = if s.half ∧ s.mode = .enc then s.hdrOut ++ [headerByte s.pend 0] else s.hdrOut := by
  unfold State.flushHeader; (repeat' split) <;> simp_all
@[simp] theorem State.flushHeader_payOut : s.flushHeader.payOut = s.payOut := by
  unfold State.flushHeader; (repeat' split) <;> rfl
@[simp] theorem State.flushHeader_hdrIn : s.flushHeader.hdrIn = s.hdrIn := by
  unfold State.flushHeader; (repeat' split) <;> rfl
@[simp] theorem State.flushHeader_payIn : s.flushHeader.payIn = s.payIn := by
  unfold State.flushHeader; (repeat' split) <;> rfl
@[simp] theorem State.flushHeader_cmds : s.flushHeader.cmds = s.cmds := by
  unfold State.flushHeader; (repeat' split) <;> rfl
@[simp] theorem State.flushHeader_resps : s.flushHeader.resps = s.resps := by
  unfold State.flushHeader; (repeat' split) <;> rfl
@[simp] theorem State.flushHeader_draws : s.flushHeader.draws = s.draws := by
  unfold State.flushHeader; (repeat' split) <;> rfl

/-! `State.closeCall` -/

@[simp] theorem State.closeCall_params : s.closeCall.params = s.params := rfl
@[simp] theorem State.closeCall_cfg : s.closeCall.cfg = s.cfg := rfl
@[simp] theorem State.closeCall_hargs : s.closeCall.hargs = s.hargs := rfl
@[simp] theorem State.closeCall_seed : s.closeCall.seed = s.seed := rfl
@[simp] theorem State.closeCall_fcmHash : s.closeCall.fcmHash = s.fcmHash := rfl
@[simp] theorem State.closeCall_dfcmHash : s.closeCall.dfcmHash = s.dfcmHash := rfl
@[simp] theorem State.closeCall_prior : s.closeCall.prior = s.prior := rfl
@[simp] theorem State.closeCall_mode : s.closeCall.mode = .idle := rfl
@[simp] theorem State.closeCall_half : s.closeCall.half = false := rfl
@[simp] theorem State.closeCall_pend : s.closeCall.pend = 0 := rfl
@[simp] theorem State.closeCall_vcount : s.closeCall.vcount = s.vcount := rfl
@[simp] theorem State.closeCall_pcount : s.closeCall.pcount = s.pcount := rfl
@[simp] theorem State.closeCall_hcount : s.closeCall.hcount = s.hcount := rfl
@[simp] theorem State.closeCall_errv : s.closeCall.errv = s.errv := rfl
@[simp] theorem State.closeCall_errcode : s.closeCall.errcode = s.errcode := rfl
@[simp] theorem State.closeCall_tf : s.closeCall.tf = s.tf := rfl
@[simp] theorem State.closeCall_td : s.closeCall.td = s.td := rfl
@[simp] theorem State.closeCall_hdrOut : s.closeCall.hdrOut = s.hdrOut := rfl
@[simp] theorem State.closeCall_payOut : s.closeCall.payOut = s.payOut := rfl
@[simp] theorem State.closeCall_hdrIn : s.closeCall.hdrIn = s.hdrIn := rfl
@[simp] theorem State.closeCall_payIn : s.closeCall.payIn = s.payIn := rfl
@[simp] theorem State.closeCall_cmds : s.closeCall.cmds = s.cmds := rfl
@[simp] theorem State.closeCall_resps : s.closeCall.resps = s.resps := rfl
@[simp] theorem State.closeCall_draws : s.closeCall.draws = s.draws := rfl

/-! `State.memWrite` -/

@[simp] theorem State.memWrite_params (t : Table) (i : Nat) (v : Word) :
    (s.memWrite t i v).params = s.params := by
  cases t <;> rfl
@[simp] theorem State.memWrite_cfg (t : Table) (i : Nat) (v : Word) : (s.memWrite t i v).cfg = s.cfg := by
  cases t <;> rfl
@[simp] theorem State.memWrite_hargs (t : Table) (i : Nat) (v : Word) :
    (s.memWrite t i v).hargs = s.hargs := by
  cases t <;> rfl
@[simp] theorem State.memWrite_seed (t : Table) (i : Nat) (v : Word) : (s.memWrite t i v).seed = s.seed := by
  cases t <;> rfl
@[simp] theorem State.memWrite_fcmHash (t : Table) (i : Nat) (v : Word) :
    (s.memWrite t i v).fcmHash = s.fcmHash := by
  cases t <;> rfl
@[simp] theorem State.memWrite_dfcmHash (t : Table) (i : Nat) (v : Word) :
    (s.memWrite t i v).dfcmHash = s.dfcmHash := by
  cases t <;> rfl
@[simp] theorem State.memWrite_prior (t : Table) (i : Nat) (v : Word) :
    (s.memWrite t i v).prior = s.prior := by
  cases t <;> rfl
@[simp] theorem State.memWrite_mode (t : Table) (i : Nat) (v : Word) : (s.memWrite t i v).mode = s.mode := by
  cases t <;> rfl
@[simp] theorem State.memWrite_half (t : Table) (i : Nat) (v : Word) : (s.memWrite t i v).half = s.half := by
  cases t <;> rfl
@[simp] theorem State.memWrite_pend (t : Table) (i : Nat) (v : Word) : (s.memWrite t i v).pend = s.pend := by
  cases t <;> rfl
@[simp] theorem State.memWrite_vcount (t : Table) (i : Nat) (v : Word) :
    (s.memWrite t i v).vcount = s.vcount := by
  cases t <;> rfl
@[simp] theorem State.memWrite_pcount (t : Table) (i : Nat) (v : Word) :
    (s.memWrite t i v).pcount = s.pcount := by
  cases t <;> rfl
@[simp] theorem State.memWrite_hcount (t : Table) (i : Nat) (v : Word) :
    (s.memWrite t i v).hcount = s.hcount := by
  cases t <;> rfl
@[simp] theorem State.memWrite_errv (t : Table) (i : Nat) (v : Word) : (s.memWrite t i v).errv = s.errv := by
  cases t <;> rfl
@[simp] theorem State.memWrite_errcode (t : Table) (i : Nat) (v : Word) :
    (s.memWrite t i v).errcode = s.errcode := by
  cases t <;> rfl
@[simp] theorem State.memWrite_hdrOut (t : Table) (i : Nat) (v : Word) :
    (s.memWrite t i v).hdrOut = s.hdrOut := by
  cases t <;> rfl
@[simp] theorem State.memWrite_payOut (t : Table) (i : Nat) (v : Word) :
    (s.memWrite t i v).payOut = s.payOut := by
  cases t <;> rfl
@[simp] theorem State.memWrite_hdrIn (t : Table) (i : Nat) (v : Word) :
    (s.memWrite t i v).hdrIn = s.hdrIn := by
  cases t <;> rfl
@[simp] theorem State.memWrite_payIn (t : Table) (i : Nat) (v : Word) :
    (s.memWrite t i v).payIn = s.payIn := by
  cases t <;> rfl
@[simp] theorem State.memWrite_cmds (t : Table) (i : Nat) (v : Word) : (s.memWrite t i v).cmds = s.cmds := by
  cases t <;> rfl
@[simp] theorem State.memWrite_resps (t : Table) (i : Nat) (v : Word) :
    (s.memWrite t i v).resps = s.resps := by
  cases t <;> rfl
@[simp] theorem State.memWrite_draws (t : Table) (i : Nat) (v : Word) :
    (s.memWrite t i v).draws = s.draws := by
  cases t <;> rfl
@[simp] theorem State.memWrite_fcm_tf (i : Nat) (v : Word) : (s.memWrite .fcm i v).tf = s.tf.write i v := rfl
@[simp] theorem State.memWrite_fcm_td (i : Nat) (v : Word) : (s.memWrite .fcm i v).td = s.td := rfl
@[simp] theorem State.memWrite_dfcm_td (i : Nat) (v : Word) : (s.memWrite .dfcm i v).td = s.td.write i v := rfl
@[simp] theorem State.memWrite_dfcm_tf (i : Nat) (v : Word) : (s.memWrite .dfcm i v).tf = s.tf := rfl

end Sys2Proof.Machine
end

