-- ==== Sys2Proof/Laws/Ops.lean ====
section
/-! SUPPORT. What each shared operation can do, said once: the order of checks, the slot test, an illegal word. -/

namespace Sys2Proof.Machine

/-- Rule R227: a checked command is rejected (halted), raises ILLEGAL, raises SEQ, or runs. -/
theorem checked_cases {i : Instr} {s : State} {run o : Result} (h : checked i s run = o) :
    (s.errv = true ∧ acceptedHalted i = false ∧ o = .next s.reject) ∨
    ((s.errv = false ∨ acceptedHalted i = true) ∧ i.wellFormed = false ∧ o = .next (s.raise .illegal)) ∨
    ((s.errv = false ∨ acceptedHalted i = true) ∧ i.wellFormed = true ∧ acceptedIn i s.mode = false ∧
      o = .next (s.raise .seq)) ∨
    ((s.errv = false ∨ acceptedHalted i = true) ∧ i.wellFormed = true ∧ acceptedIn i s.mode = true ∧ o = run) := by
  subst h
  unfold checked
  cases s.errv <;> cases acceptedHalted i <;> cases i.wellFormed <;> cases acceptedIn i s.mode <;> simp

/-- Rule R226: an accepted command runs. -/
theorem checked_run {i : Instr} {s : State} (run : Result) (hh : s.errv = false ∨ acceptedHalted i = true)
    (hw : i.wellFormed = true) (hm : acceptedIn i s.mode = true) : checked i s run = run := by
  unfold checked
  rcases hh with hh | hh <;> simp [hh, hw, hm]

/-- Rule R232: a halted engine rejects. -/
theorem checked_halted {i : Instr} {s : State} (run : Result) (hh : s.errv = true)
    (hi : acceptedHalted i = false) : checked i s run = .next s.reject := by
  simp [checked, hh, hi]

/-- Rule R222: a legal command the mode does not accept raises SEQ. -/
theorem checked_seq {i : Instr} {s : State} (run : Result) (hh : s.errv = false)
    (hw : i.wellFormed = true) (hm : acceptedIn i s.mode = false) : checked i s run = .next (s.raise .seq) := by
  simp [checked, hh, hw, hm]

/-- Log entry 6: a table access runs where its slots exist, and faults elsewhere. -/
theorem whereSlots_cases {ok : Bool} {run o : Result} (h : whereSlots ok run = o) :
    (ok = true ∧ o = run) ∨ (ok = false ∧ o = .fault .absentSlot) := by
  subst h; cases ok <;> simp [whereSlots]

@[simp] theorem whereSlots_true (run : Result) : whereSlots true run = run := rfl

/-- A run that answers a next state did so because its slots exist. -/
theorem whereSlots_next {ok : Bool} {run : Result} {t : State} (h : whereSlots ok run = .next t) :
    ok = true ∧ run = .next t := by
  rcases whereSlots_cases h with ⟨ho, hr⟩ | ⟨_, hr⟩
  · exact ⟨ho, hr.symm⟩
  · cases hr

/-- Rules R221, R227: an illegal word is rejected by a halted engine, or raises ILLEGAL. -/
theorem State.illegalWord_cases (s : State) (cmd : CmdWord) :
    (s.errv = true ∧ s.illegalWord cmd = s.reject) ∨ s.illegalWord cmd = s.raise .illegal := by
  unfold State.illegalWord
  split
  · next h => exact .inl ⟨by simpa using (Bool.and_eq_true_iff.1 h).1, rfl⟩
  · exact .inr rfl

/-- Rule R231: error entry as one update of the state. -/
theorem State.raise_eq (s : State) (cause : Cause) :
    s.raise cause = { s with
      errv := true, errcode := if s.errv then s.errcode else cause.code
      cmds := s.cmds.tail, resps := s.resps ++ [⟨false, 0⟩] } := rfl

/-- Rule R232: a rejection as one update of the state. -/
theorem State.reject_eq (s : State) :
    s.reject = { s with cmds := s.cmds.tail, resps := s.resps ++ [⟨false, 0⟩] } := rfl

/-- Rule R80: a successful response as one update of the state. -/
theorem State.respond_eq (s : State) (data : Word) :
    s.respond data = { s with cmds := s.cmds.tail, resps := s.resps ++ [⟨true, data⟩] } := rfl

/-- Where the DECV field comes from (rule R153). -/
theorem State.headerSource_half {s : State} (h : s.half = true) : s.headerSource = some (s.pend, none) := by
  simp [State.headerSource, h]

theorem State.headerSource_fresh {s : State} {b : Byte} {rest : List Byte} (h : s.half = false)
    (hb : s.hdrIn = b :: rest) : s.headerSource = some (lowField b, some b) := by
  simp [State.headerSource, h, hb]

theorem State.headerSource_empty {s : State} (h : s.half = false) (hb : s.hdrIn = []) :
    s.headerSource = none := by
  simp [State.headerSource, h, hb]

end Sys2Proof.Machine
end

