-- ==== Sys2Proof/Laws/Effect.lean ====
section
/-! SUPPORT. What a command and a step can do, said once: `Effect` lists the successful outcome of each command, and
the inversion lemmas say that a next state is an effect, an error entry, a rejection or a wait. -/

namespace Sys2Proof.Machine

/-- The successful outcome of each command, with what it checked. -/
inductive Effect (s : State) : Instr → State → Prop where
  | nop : Effect s .nop (s.respond 0)
  | cfg {w : Width} {f d : BitVec 5} : s.mode = .idle → s.cfgInRange f d = true →
      Effect s (.cfg w f d) ((s.configure w f d).respond 0)
  | hargs {lf rf ld rd : BitVec 6} : s.mode = .idle →
      Effect s (.hargs lf rf ld rd) (({ s with hargs := ⟨lf, rf, ld, rd⟩ } : State).respond 0)
  | seed {o : Word} : s.mode = .idle → Effect s (.seed o) (({ s with seed := o } : State).respond 0)
  | defaults : s.mode = .idle →
      Effect s .defaults (({ s with hargs := defaultHashArgs s.cfg.w, seed := 0 } : State).respond 0)
  | clear : s.mode = .idle → Effect s .clear (s.clearTables.respond 0)
  | beginFresh {m : BitVec 2} : s.mode = .idle → m ≠ 0 →
      Effect s (.beginCall m false) (((s.openCall (.ofBits m)).restartPredictor s.cfg.w).respond 0)
  | beginContinued {m : BitVec 2} : s.mode = .idle → m ≠ 0 →
      Effect s (.beginCall m true) ((s.openCall (.ofBits m)).respond 0)
  | encv {o : Word} : s.mode = .enc ∨ s.mode = .size → s.cursorsExist = true →
      Effect s (.encv o) (s.encodeStep (s.valueOperand o))
  | decv {field : BitVec 4} {source : Option Byte} : s.mode = .dec → s.headerSource = some (field, source) →
      badField s.cfg.w field = false → payLen s.cfg.w (fieldCode field) ≤ s.payIn.length →
      s.cursorsExist = true → Effect s .decv (s.decodeStep field source)
  | endCall : s.mode ≠ .idle → Effect s .endCall (s.flushHeader.closeCall.respond s.pcount)
  | rdreg {sel : BitVec 4} {r : Reg} : Reg.ofSel sel = some r → Effect s (.rdreg sel) (s.respond (s.view r))
  | rdtbl {t : Table} {i : BitVec 23} : s.mode = .idle → s.indexInSize t i = true →
      s.slotExists t i.toNat = true → Effect s (.rdtbl t i) (s.respond (s.memRead t i.toNat))
  | wrtbl {t : Table} {i : BitVec 23} {o : Word} : s.mode = .idle → s.indexInSize t i = true →
      s.slotExists t i.toNat = true → Effect s (.wrtbl t i o) ((s.memWrite t i.toNat o).respond 0)
  | errclr : Effect s .errclr (s.clearError.respond 0)

/-- Inversion of one command: a next state of `exec` is a rejection, an error entry, a wait or an effect. -/
theorem exec_cases {i : Instr} {s t : State} (h : exec i s = .next t) :
    (s.errv = true ∧ acceptedHalted i = false ∧ t = s.reject) ∨
    ((s.errv = false ∨ acceptedHalted i = true) ∧ ∃ cause, t = s.raise cause) ∨
    (i = .decv ∧ s.errv = false ∧ s.mode = .dec ∧ s.inputMissing ∧ t = s) ∨
    ((s.errv = false ∨ acceptedHalted i = true) ∧ Effect s i t) := by
  have key : ∀ {run : Result}, checked i s run = .next t →
      ((s.errv = false ∨ acceptedHalted i = true) → i.wellFormed = true → acceptedIn i s.mode = true →
        run = .next t →
        (∃ cause, t = s.raise cause) ∨
        (i = .decv ∧ s.errv = false ∧ s.mode = .dec ∧ s.inputMissing ∧ t = s) ∨ Effect s i t) →
      (s.errv = true ∧ acceptedHalted i = false ∧ t = s.reject) ∨
      ((s.errv = false ∨ acceptedHalted i = true) ∧ ∃ cause, t = s.raise cause) ∨
      (i = .decv ∧ s.errv = false ∧ s.mode = .dec ∧ s.inputMissing ∧ t = s) ∨
      ((s.errv = false ∨ acceptedHalted i = true) ∧ Effect s i t) := by
    intro run hc hrun
    rcases checked_cases hc with ⟨a, b, c⟩ | ⟨a, _, c⟩ | ⟨a, _, _, c⟩ | ⟨a, b, c, d⟩
    · exact .inl ⟨a, b, by simpa using c⟩
    · exact .inr (.inl ⟨a, _, by simpa using c⟩)
    · exact .inr (.inl ⟨a, _, by simpa using c⟩)
    · rcases hrun a b c d.symm with h | h | h
      · exact .inr (.inl ⟨a, h⟩)
      · exact .inr (.inr (.inl h))
      · exact .inr (.inr (.inr ⟨a, h⟩))
  cases i with
  | nop => exact key h fun _ _ _ hr => .inr (.inr (by cases hr; exact .nop))
  | cfg w f d =>
    refine key h fun _ _ hm hr => ?_
    simp only [Host.Outcome.next.injEq] at hr
    split at hr
    · next hc => subst hr; exact .inr (.inr (.cfg (by simpa [acceptedIn] using hm) hc))
    · exact .inl ⟨_, hr.symm⟩
  | hargs lf rf ld rd =>
    exact key h fun _ _ hm hr => .inr (.inr (by cases hr; exact .hargs (by simpa [acceptedIn] using hm)))
  | seed o => exact key h fun _ _ hm hr => .inr (.inr (by cases hr; exact .seed (by simpa [acceptedIn] using hm)))
  | defaults =>
    exact key h fun _ _ hm hr => .inr (.inr (by cases hr; exact .defaults (by simpa [acceptedIn] using hm)))
  | clear => exact key h fun _ _ hm hr => .inr (.inr (by cases hr; exact .clear (by simpa [acceptedIn] using hm)))
  | beginCall m k =>
    refine key h fun _ hw hm hr => .inr (.inr ?_)
    have hm' : s.mode = .idle := by simpa [acceptedIn] using hm
    have hw' : m ≠ 0 := by simpa [Instr.wellFormed, beginModeLegal] using hw
    cases k
    · cases hr; exact .beginFresh hm' hw'
    · cases hr; exact .beginContinued hm' hw'
  | encv o =>
    refine key h fun _ _ hm hr => .inr (.inr ?_)
    obtain ⟨hs, hr⟩ := whereSlots_next hr
    cases hr
    exact .encv (by simpa [acceptedIn] using hm) hs
  | decv =>
    refine key h fun he _ hm hr => ?_
    have hm' : s.mode = .dec := by simpa [acceptedIn] using hm
    have he' : s.errv = false := by simpa [acceptedHalted] using he
    split at hr
    · next hn => cases hr; exact .inr (.inl ⟨rfl, he', hm', by simp [State.inputMissing, hn], rfl⟩)
    · next field source hf =>
      split at hr
      · exact .inl ⟨.badHdr, by simpa using hr.symm⟩
      · next hb =>
        split at hr
        · next hl =>
          cases hr
          exact .inr (.inl ⟨rfl, he', hm', by simpa [State.inputMissing, hf, hl] using hb, rfl⟩)
        · next hl =>
          obtain ⟨hs, hr⟩ := whereSlots_next hr
          cases hr
          exact .inr (.inr (.decv hm' hf (by simpa using hb) (Nat.le_of_not_lt hl) hs))
  | endCall =>
    exact key h fun _ _ hm hr => .inr (.inr (by cases hr; exact .endCall (by simpa [acceptedIn] using hm)))
  | rdreg sel =>
    refine key h fun _ _ _ hr => ?_
    simp only [Host.Outcome.next.injEq] at hr
    split at hr
    · next r hsel => subst hr; exact .inr (.inr (.rdreg hsel))
    · exact .inl ⟨_, hr.symm⟩
  | rdtbl tbl idx =>
    refine key h fun _ _ hm hr => ?_
    split at hr
    · next hx =>
      obtain ⟨hs, hr⟩ := whereSlots_next hr
      cases hr
      exact .inr (.inr (.rdtbl (by simpa [acceptedIn] using hm) hx hs))
    · exact .inl ⟨.badIdx, by simpa using hr.symm⟩
  | wrtbl tbl idx o =>
    refine key h fun _ _ hm hr => ?_
    split at hr
    · next hx =>
      obtain ⟨hs, hr⟩ := whereSlots_next hr
      cases hr
      exact .inr (.inr (.wrtbl (by simpa [acceptedIn] using hm) hx hs))
    · exact .inl ⟨.badIdx, by simpa using hr.symm⟩
  | errclr => exact key h fun _ _ _ hr => .inr (.inr (by cases hr; exact .errclr))

/-- Inversion of one step: no command is presented; or the oldest one is illegal; or it is run. -/
theorem step_cases {s : State} {o : Result} (h : step s = o) :
    (s.cmds = [] ∧ o = .next s) ∨
    (∃ c rest e, s.cmds = c :: rest ∧ decode c = .error e ∧ o = .next (s.illegalWord c.cmd)) ∨
    (∃ c rest i, s.cmds = c :: rest ∧ decode c = .ok i ∧ o = exec i s) := by
  subst h
  unfold step State.nextCommand
  cases hc : s.cmds with
  | nil => exact .inl ⟨rfl, rfl⟩
  | cons c rest =>
    cases hd : decode c with
    | error e => exact .inr (.inl ⟨c, rest, e, rfl, hd, by simp [hd]⟩)
    | ok i => exact .inr (.inr ⟨c, rest, i, rfl, hd, by simp [hd]⟩)

/-- Every effect is a completion with a successful response (rule R80). -/
theorem Effect.resps {s t : State} {i : Instr} (h : Effect s i t) :
    t.cmds = s.cmds.tail ∧ ∃ data, t.resps = s.resps ++ [⟨true, data⟩] := by
  cases h <;> simp [State.encodeStep, State.decodeStep]

end Sys2Proof.Machine
end

