-- ==== Sys2Proof/Laws/Ram.lean ====
section
/-! SUPPORT. The laws of a table RAM: read after write, and that every write keeps the canonical form. -/

namespace Sys2Proof.Machine

@[simp] theorem Ram.cleared_fill : Ram.cleared.fill = .zero := rfl
@[simp] theorem Ram.cleared_cells : Ram.cleared.cells = [] := rfl
@[simp] theorem Ram.unspecified_fill (d : Nat) : (Ram.unspecified d).fill = .unspecified d := rfl
@[simp] theorem Ram.unspecified_cells (d : Nat) : (Ram.unspecified d).cells = [] := rfl
@[simp] theorem Ram.write_fill (m : Ram) (i : Nat) (v : Word) : (m.write i v).fill = m.fill := rfl
@[simp] theorem fillSlot_zero (i : Nat) : fillSlot .zero i = 0 := rfl
@[simp] theorem fillSlot_unspecified (d i : Nat) :
    fillSlot (.unspecified d) i = Config.unspecifiedSlot d i := rfl

/-- A cleared RAM reads zero everywhere (rule R135). -/
@[simp] theorem Ram.cleared_read (i : Nat) : Ram.cleared.read i = 0 := rfl

/-- A RAM after hardware reset reads the free values of its image (rule R251). -/
@[simp] theorem Ram.unspecified_read (d i : Nat) :
    (Ram.unspecified d).read i = Config.unspecifiedSlot d i := rfl

theorem cellsFind_put_same (i : Nat) (v : Word) (l : List Slot) : cellsFind (cellsPut i v l) i = some v := by
  induction l with
  | nil => simp [cellsPut, cellsFind]
  | cons c rest ih =>
    obtain ⟨j, u⟩ := c
    by_cases hlt : i < j
    · simp [cellsPut, cellsFind, hlt]
    · by_cases heq : i = j
      · simp [cellsPut, cellsFind, heq]
      · simp [cellsPut, cellsFind, hlt, heq, ih]

theorem cellsFind_put_other {i k : Nat} (h : k ≠ i) (v : Word) (l : List Slot) :
    cellsFind (cellsPut i v l) k = cellsFind l k := by
  induction l with
  | nil => simp [cellsPut, cellsFind, h]
  | cons c rest ih =>
    obtain ⟨j, u⟩ := c
    by_cases hlt : i < j
    · simp [cellsPut, cellsFind, hlt, h]
    · by_cases heq : i = j
      · subst heq; simp [cellsPut, cellsFind, h]
      · by_cases hk : k = j <;> simp [cellsPut, cellsFind, hlt, heq, hk, ih]

theorem cellsFind_drop_other {i k : Nat} (h : k ≠ i) (l : List Slot) :
    cellsFind (cellsDrop i l) k = cellsFind l k := by
  induction l with
  | nil => rfl
  | cons c rest ih =>
    obtain ⟨j, u⟩ := c
    by_cases heq : i = j
    · subst heq; simp [cellsDrop, cellsFind, h, ih]
    · by_cases hk : k = j <;> simp [cellsDrop, cellsFind, heq, hk, ih]

theorem cellsFind_drop_same (i : Nat) (l : List Slot) : cellsFind (cellsDrop i l) i = none := by
  induction l with
  | nil => rfl
  | cons c rest ih =>
    obtain ⟨j, u⟩ := c
    by_cases heq : i = j <;> simp [cellsDrop, cellsFind, heq, ih]
    subst heq; exact ih

theorem cellsDrop_subset (i : Nat) (l : List Slot) : ∀ c ∈ cellsDrop i l, c ∈ l := by
  induction l with
  | nil => simp [cellsDrop]
  | cons c rest ih =>
    obtain ⟨j, u⟩ := c
    by_cases heq : i = j
    · simp only [cellsDrop, heq, ↓reduceIte]
      intro c hc
      exact List.mem_cons_of_mem _ (ih c (heq ▸ hc))
    · simp only [cellsDrop, heq, ↓reduceIte, List.mem_cons]
      rintro c (hc | hc)
      · exact .inl hc
      · exact .inr (ih c hc)

theorem cellsDrop_pairwise (i : Nat) {l : List Slot} (h : l.Pairwise (fun a b => a.1 < b.1)) :
    (cellsDrop i l).Pairwise (fun a b => a.1 < b.1) := by
  induction l with
  | nil => simp [cellsDrop]
  | cons c rest ih =>
    obtain ⟨j, u⟩ := c
    rw [List.pairwise_cons] at h
    by_cases heq : i = j
    · simpa [cellsDrop, heq] using heq ▸ ih h.2
    · simp only [cellsDrop, heq, ↓reduceIte, List.pairwise_cons]
      exact ⟨fun c hc => h.1 c (cellsDrop_subset i rest c hc), ih h.2⟩

theorem cellsPut_subset (i : Nat) (v : Word) (l : List Slot) :
    ∀ c ∈ cellsPut i v l, c = (i, v) ∨ c ∈ l := by
  induction l with
  | nil => simp [cellsPut]
  | cons c rest ih =>
    obtain ⟨j, u⟩ := c
    by_cases hlt : i < j
    · simp only [cellsPut, hlt, ↓reduceIte]; intro c hc; simpa using hc
    · by_cases heq : i = j
      · simp only [cellsPut, heq, ↓reduceIte, Nat.lt_irrefl]
        intro c hc
        rcases List.mem_cons.1 hc with hc | hc
        · exact .inl hc
        · exact .inr (by simp [hc])
      · simp only [cellsPut, hlt, heq, ↓reduceIte]
        intro c hc
        rcases List.mem_cons.1 hc with hc | hc
        · exact .inr (by simp [hc])
        · rcases ih c hc with h | h
          · exact .inl h
          · exact .inr (by simp [h])

theorem cellsPut_pairwise (i : Nat) (v : Word) {l : List Slot} (h : l.Pairwise (fun a b => a.1 < b.1)) :
    (cellsPut i v l).Pairwise (fun a b => a.1 < b.1) := by
  induction l with
  | nil => simp [cellsPut]
  | cons c rest ih =>
    obtain ⟨j, u⟩ := c
    have hrest := (List.pairwise_cons.1 h)
    by_cases hlt : i < j
    · simp only [cellsPut, hlt, ↓reduceIte, List.pairwise_cons]
      refine ⟨fun c hc => ?_, hrest.1, hrest.2⟩
      rcases List.mem_cons.1 hc with hc | hc
      · rw [hc]; exact hlt
      · exact Nat.lt_trans hlt (hrest.1 c hc)
    · by_cases heq : i = j
      · subst heq
        simp only [cellsPut, Nat.lt_irrefl, ↓reduceIte, List.pairwise_cons]
        exact ⟨hrest.1, hrest.2⟩
      · simp only [cellsPut, hlt, heq, ↓reduceIte, List.pairwise_cons]
        refine ⟨fun c hc => ?_, ih hrest.2⟩
        rcases cellsPut_subset i v rest c hc with hc | hc
        · rw [hc]; exact Nat.lt_of_le_of_ne (Nat.le_of_not_lt hlt) (Ne.symm heq)
        · exact hrest.1 c hc

/-- Read after write, another slot: every other slot reads as before. -/
theorem Ram.read_write_other (m : Ram) {i k : Nat} (h : k ≠ i) (v : Word) :
    (m.write i v).read k = m.read k := by
  unfold Ram.read Ram.write
  by_cases hv : v = fillSlot m.fill i
  · simp [hv, cellsFind_drop_other h]
  · simp [hv, cellsFind_put_other h]

/-- Read after write, the same slot. -/
@[simp] theorem Ram.read_write_same (m : Ram) (i : Nat) (v : Word) : (m.write i v).read i = v := by
  unfold Ram.read Ram.write
  by_cases hv : v = fillSlot m.fill i
  · simp [hv, cellsFind_drop_same]
  · simp [hv, cellsFind_put_same]

/-- Every write keeps the canonical form. -/
theorem Ram.write_wf {depth : Nat} {m : Ram} (h : m.wf depth) {i : Nat} (hi : i < depth) (v : Word) :
    (m.write i v).wf depth := by
  unfold Ram.write
  by_cases hv : v = fillSlot m.fill i
  · simp only [hv, ↓reduceIte]
    exact ⟨cellsDrop_pairwise i h.1, fun c hc => h.2 c (cellsDrop_subset i m.cells c hc)⟩
  · simp only [hv, ↓reduceIte]
    refine ⟨cellsPut_pairwise i v h.1, fun c hc => ?_⟩
    rcases cellsPut_subset i v m.cells c hc with hc | hc
    · rw [hc]; exact ⟨hi, hv⟩
    · exact h.2 c hc

/-- A cleared RAM has the canonical form. -/
theorem Ram.cleared_wf (depth : Nat) : Ram.cleared.wf depth := by simp [Ram.wf]

/-- A RAM after hardware reset has the canonical form. -/
theorem Ram.unspecified_wf (depth d : Nat) : (Ram.unspecified d).wf depth := by simp [Ram.wf]

end Sys2Proof.Machine
end

