-- ==== Sys2Proof/Laws/Memory.lean ====
section
/-! SUPPORT. Every operation on the tables keeps their canonical form, and what it leaves of every slot. -/

namespace Sys2Proof.Machine

/-- Both tables have the canonical form of their physical depth. -/
abbrev State.tablesWf (s : State) : Prop :=
  s.tf.wf (2 ^ s.params.maxLog2F.val) ∧ s.td.wf (2 ^ s.params.maxLog2D.val)

theorem State.resetWith_tablesWf (p : Params) (d : Nat) : (State.resetWith p d).tablesWf :=
  ⟨Ram.unspecified_wf _ _, Ram.unspecified_wf _ _⟩

/-- The reset tables have the canonical form. -/
theorem State.reset_tablesWf : State.reset.tablesWf := State.resetWith_tablesWf _ _

theorem State.clearTables_tablesWf (s : State) : s.clearTables.tablesWf :=
  ⟨Ram.cleared_wf _, Ram.cleared_wf _⟩

/-- MemWrite to a slot that exists keeps the canonical form. -/
theorem State.memWrite_tablesWf {s : State} (h : s.tablesWf) {t : Table} {i : Nat}
    (hi : s.slotExists t i = true) (v : Word) : (s.memWrite t i v).tablesWf := by
  cases t
  · exact ⟨Ram.write_wf h.1 (of_decide_eq_true hi) v, h.2⟩
  · exact ⟨h.1, Ram.write_wf h.2 (of_decide_eq_true hi) v⟩

/-- Advance keeps the canonical form where the cursors exist. -/
theorem State.advance_tablesWf {s : State} (h : s.tablesWf) (hc : s.cursorsExist = true) (v : Nat) :
    (s.advance v).tablesWf := by
  simp only [State.cursorsExist, State.slotExists, Bool.and_eq_true, decide_eq_true_eq] at hc
  exact ⟨Ram.write_wf h.1 hc.1 _, Ram.write_wf h.2 hc.2 _⟩

/-- A cleared engine reads zero everywhere (rule R135). -/
@[simp] theorem State.clearTables_memRead (s : State) (t : Table) (i : Nat) :
    s.clearTables.memRead t i = 0 := by cases t <;> rfl

/-- MemWrite, the slot written. -/
@[simp] theorem State.memWrite_memRead_same (s : State) (t : Table) (i : Nat) (v : Word) :
    (s.memWrite t i v).memRead t i = v := by cases t <;> simp [State.memRead, State.ram]

/-- MemWrite, every other slot of both tables. -/
theorem State.memWrite_memRead_other (s : State) {t t' : Table} {i j : Nat} (h : (t', j) ≠ (t, i)) (v : Word) :
    (s.memWrite t i v).memRead t' j = s.memRead t' j := by
  cases t <;> cases t' <;> simp only [State.memRead, State.ram, State.memWrite_fcm_tf, State.memWrite_fcm_td,
    State.memWrite_dfcm_tf, State.memWrite_dfcm_td] <;> exact Ram.read_write_other _ (by simpa using h) v

end Sys2Proof.Machine
end

