-- ==== Sys2Proof/Laws/PerInstr.lean ====
section
/-! SUPPORT. What holds of every command term: the opcode of its word is the one rule R89 gives it. -/

namespace Sys2Proof

/-- The opcode map (rule R89), the opcode column. -/
def opcodeNumber : Instr → BitVec 8
  | .nop => 0x00
  | .cfg _ _ _ => 0x01
  | .hargs _ _ _ _ => 0x02
  | .seed _ => 0x03
  | .defaults => 0x04
  | .clear => 0x05
  | .beginCall _ _ => 0x06
  | .encv _ => 0x07
  | .decv => 0x08
  | .endCall => 0x09
  | .rdreg _ => 0x0A
  | .rdtbl _ _ => 0x0B
  | .wrtbl _ _ _ => 0x0C
  | .errclr => 0x0D

/-- A field of a word given by its value: the quotient and remainder that name it. -/
theorem extractLsb'_eq_of_toNat {n len : Nat} (lo : Nat) (x : BitVec n) (y : BitVec len)
    (h : x.toNat / 2 ^ lo % 2 ^ len = y.toNat) : x.extractLsb' lo len = y := by
  apply BitVec.eq_of_toNat_eq
  rw [BitVec.extractLsb'_toNat, Nat.shiftRight_eq_div_pow, h]

/-- A word that is an opcode plus a multiple of 256 has that opcode (rule R81). -/
theorem opcodeOf_ofNat (op : BitVec 8) (fields : Nat) :
    opcodeOf (BitVec.ofNat 32 (op.toNat + fields * 2 ^ 8)) = op := by
  have := op.isLt
  refine extractLsb'_eq_of_toNat 0 _ _ ?_
  rw [BitVec.toNat_ofNat]
  omega

/-- Rule R89: the word of a command carries the command's opcode in its low byte. -/
def Laws.Opcode.Statement (i : Instr) : Prop := opcodeOf (encodeWord i) = opcodeNumber i

theorem Laws.Opcode.nop : Laws.Opcode.Statement .nop := rfl

theorem Laws.Opcode.cfg (w : Width) (flog2 dlog2 : BitVec 5) :
    Laws.Opcode.Statement (.cfg w flog2 dlog2) := by
  unfold Laws.Opcode.Statement opcodeNumber
  rw [← opcodeOf_ofNat 0x01 (w.bit.toNat + flog2.toNat * 2 ^ 8 + dlog2.toNat * 2 ^ 16)]
  unfold encodeWord
  refine congrArg (fun n => opcodeOf (BitVec.ofNat 32 n)) ?_
  simp only [BitVec.reduceToNat]
  omega

theorem Laws.Opcode.hargs (lf rf ld rd : BitVec 6) : Laws.Opcode.Statement (.hargs lf rf ld rd) := by
  unfold Laws.Opcode.Statement opcodeNumber
  rw [← opcodeOf_ofNat 0x02 (lf.toNat + rf.toNat * 2 ^ 6 + ld.toNat * 2 ^ 12 + rd.toNat * 2 ^ 18)]
  unfold encodeWord
  refine congrArg (fun n => opcodeOf (BitVec.ofNat 32 n)) ?_
  simp only [BitVec.reduceToNat]
  omega

theorem Laws.Opcode.seed (operand : Word) : Laws.Opcode.Statement (.seed operand) := rfl
theorem Laws.Opcode.defaults : Laws.Opcode.Statement .defaults := rfl
theorem Laws.Opcode.clear : Laws.Opcode.Statement .clear := rfl

theorem Laws.Opcode.beginCall (mode : BitVec 2) (k : Bool) :
    Laws.Opcode.Statement (.beginCall mode k) := by
  unfold Laws.Opcode.Statement
  revert mode k
  decide

theorem Laws.Opcode.encv (operand : Word) : Laws.Opcode.Statement (.encv operand) := rfl
theorem Laws.Opcode.decv : Laws.Opcode.Statement .decv := rfl
theorem Laws.Opcode.endCall : Laws.Opcode.Statement .endCall := rfl

theorem Laws.Opcode.rdreg (sel : BitVec 4) : Laws.Opcode.Statement (.rdreg sel) := by
  unfold Laws.Opcode.Statement
  revert sel
  decide

theorem Laws.Opcode.rdtbl (t : Table) (idx : BitVec 23) : Laws.Opcode.Statement (.rdtbl t idx) := by
  unfold Laws.Opcode.Statement opcodeNumber
  rw [← opcodeOf_ofNat 0x0B (t.bit.toNat + idx.toNat * 2)]
  unfold encodeWord
  refine congrArg (fun n => opcodeOf (BitVec.ofNat 32 n)) ?_
  simp only [BitVec.reduceToNat]
  omega

theorem Laws.Opcode.wrtbl (t : Table) (idx : BitVec 23) (operand : Word) :
    Laws.Opcode.Statement (.wrtbl t idx operand) := by
  unfold Laws.Opcode.Statement opcodeNumber
  rw [← opcodeOf_ofNat 0x0C (t.bit.toNat + idx.toNat * 2)]
  unfold encodeWord
  refine congrArg (fun n => opcodeOf (BitVec.ofNat 32 n)) ?_
  simp only [BitVec.reduceToNat]
  omega

theorem Laws.Opcode.errclr : Laws.Opcode.Statement .errclr := rfl

end Sys2Proof
end

