-- ==== Sys2Proof/Laws/Predictor.lean ====
section
/-! SUPPORT. The datapath's small lemmas: every value it computes is below its bound, the header field's parts, and
what `Advance` does to the tables and cursors. -/

namespace Sys2Proof.Machine

@[simp] theorem widthBits_w64 : widthBits .w64 = 64 := rfl
@[simp] theorem widthBits_w32 : widthBits .w32 = 32 := rfl
@[simp] theorem widthBytes_w64 : widthBytes .w64 = 8 := rfl
@[simp] theorem widthBytes_w32 : widthBytes .w32 = 4 := rfl

/-- A word is eight bits per byte (rule R17). -/
theorem widthBits_eq (w : Width) : widthBits w = 8 * widthBytes w := by cases w <;> rfl

theorem widthBits_le (w : Width) : widthBits w ≤ 64 := by cases w <;> decide

theorem two_pow_widthBits_le (w : Width) : 2 ^ widthBits w ≤ 2 ^ 64 :=
  Nat.pow_le_pow_right (by decide) (widthBits_le w)

theorem two_pow_widthBits_pos (w : Width) : 0 < 2 ^ widthBits w := Nat.two_pow_pos _

/-- Rule R110: a prediction is below 2^W. -/
theorem State.predF_lt (s : State) : s.predF < 2 ^ widthBits s.cfg.w :=
  Nat.mod_lt _ (two_pow_widthBits_pos _)

/-- Rule R111: a prediction is below 2^W. -/
theorem State.predD_lt (s : State) : s.predD < 2 ^ widthBits s.cfg.w :=
  Nat.mod_lt _ (two_pow_widthBits_pos _)

theorem State.pred_lt (s : State) (t : Table) : s.pred t < 2 ^ widthBits s.cfg.w := by
  cases t
  · exact s.predF_lt
  · exact s.predD_lt

/-- Rule R112: a residual of W-bit values is below 2^W. -/
theorem xorResidual_lt {v p n : Nat} (hv : v < 2 ^ n) (hp : p < 2 ^ n) : xorResidual v p < 2 ^ n :=
  Nat.xor_lt_two_pow hv hp

/-- The residual against a prediction gives the value back. -/
@[simp] theorem xorResidual_xorResidual (v p : Nat) : xorResidual (xorResidual v p) p = v := by
  simp [xorResidual]

/-- Rule R151: the value operand is below 2^W. -/
theorem State.valueOperand_lt (s : State) (o : Word) : s.valueOperand o < 2 ^ widthBits s.cfg.w :=
  Nat.mod_lt _ (two_pow_widthBits_pos _)

/-- Rule R113: a delta is below 2^W. -/
theorem State.delta_lt (s : State) (v : Nat) : s.delta v < 2 ^ widthBits s.cfg.w := by
  unfold State.delta
  have h0 : (0 : Int) < 2 ^ widthBits s.cfg.w := by positivity
  have h1 := Int.emod_lt_of_pos ((v : Int) - (s.prior.toNat : Int)) h0
  have h2 := Int.emod_nonneg ((v : Int) - (s.prior.toNat : Int)) (Int.ne_of_gt h0)
  zify
  rw [Int.toNat_of_nonneg h2]
  exact_mod_cast h1

/-- Rule R114: a hash is below the table size. -/
theorem tableHash_lt (h x l r size : Nat) : tableHash h x l r size < 2 ^ size := Nat.mod_lt _ (Nat.two_pow_pos _)

/-- Rule R114 in products and quotients (rule R14). -/
theorem tableHash_eq (h x l r size : Nat) : tableHash h x l r size = ((h * 2 ^ l) ^^^ (x / 2 ^ r)) % 2 ^ size := by
  simp [tableHash, Nat.shiftLeft_eq, Nat.shiftRight_eq_div_pow]

/-- A value of at most `n` bits is unchanged by an `n`-bit register. -/
theorem toNat_ofNat_of_lt {n v : Nat} (h : v < 2 ^ n) : (BitVec.ofNat n v).toNat = v := by
  simp [Nat.mod_eq_of_lt h]

theorem State.delta_word (s : State) (v : Nat) : (BitVec.ofNat 64 (s.delta v)).toNat = s.delta v :=
  toNat_ofNat_of_lt (Nat.lt_of_lt_of_le (s.delta_lt v) (two_pow_widthBits_le _))

/-- The FCM cursor holds the hash, for a size exponent of at most 23 (rule R29). -/
theorem State.nextFcmHash_cursor {s : State} (h : s.cfg.flog2.toNat ≤ 23) (v : Nat) :
    (BitVec.ofNat 23 (s.nextFcmHash v)).toNat = s.nextFcmHash v :=
  toNat_ofNat_of_lt (Nat.lt_of_lt_of_le (tableHash_lt _ _ _ _ _) (Nat.pow_le_pow_right (by decide) h))

/-- The DFCM cursor holds the hash, for a size exponent of at most 23 (rule R30). -/
theorem State.nextDfcmHash_cursor {s : State} (h : s.cfg.dlog2.toNat ≤ 23) (d : Nat) :
    (BitVec.ofNat 23 (s.nextDfcmHash d)).toNat = s.nextDfcmHash d :=
  toNat_ofNat_of_lt (Nat.lt_of_lt_of_le (tableHash_lt _ _ _ _ _) (Nat.pow_le_pow_right (by decide) h))

/-- Rule R116: what Advance does, for size exponents of at most 23 and a W-bit value. -/
theorem State.advance_advancedBy {s : State} (hf : s.cfg.flog2.toNat ≤ 23) (hd : s.cfg.dlog2.toNat ≤ 23)
    {v : Nat} (hv : v < 2 ^ widthBits s.cfg.w) : s.AdvancedBy (s.advance v) v where
  tf_written := by simp
  tf_kept := fun i hi => by simp [Ram.read_write_other _ hi]
  td_written := by simpa [State.delta] using s.delta_word v
  td_kept := fun i hi => by simp [Ram.read_write_other _ hi]
  fcmHash_next := by
    rw [State.advance_fcmHash, State.nextFcmHash_cursor hf]; exact tableHash_eq _ _ _ _ _
  dfcmHash_next := by
    rw [State.advance_dfcmHash, State.nextDfcmHash_cursor hd, State.advance_td, Ram.read_write_same,
      State.delta_word]
    exact tableHash_eq _ _ _ _ _
  prior_next := by
    rw [State.advance_prior]
    exact toNat_ofNat_of_lt (Nat.lt_of_lt_of_le hv (two_pow_widthBits_le _))

/-- The invariants of rule R44 put both cursors inside the RAMs. -/
theorem State.Inv.cursorsExist {s : State} (h : s.Inv) : s.cursorsExist = true := by
  have hf := Nat.lt_of_lt_of_le h.fcmHash_lt (Nat.pow_le_pow_right (by decide) h.flog2_le)
  have hd := Nat.lt_of_lt_of_le h.dfcmHash_lt (Nat.pow_le_pow_right (by decide) h.dlog2_le)
  simp [State.cursorsExist, State.slotExists, State.cursor, State.physLog2, hf, hd]

theorem State.Inv.flog2_le_23 {s : State} (h : s.Inv) : s.cfg.flog2.toNat ≤ 23 := by
  have := h.flog2_le; have := s.params.maxLog2F.isLt; omega

theorem State.Inv.dlog2_le_23 {s : State} (h : s.Inv) : s.cfg.dlog2.toNat ≤ 23 := by
  have := h.dlog2_le; have := s.params.maxLog2D.isLt; omega

/-- The code bits of a field are its value modulo 8 (rule R94). -/
theorem fieldCode_eq (field : BitVec 4) : fieldCode field = field.toNat % 8 := by
  simp [fieldCode, BitVec.extractLsb'_toNat]

@[simp] theorem fieldType_headerField (t : Table) (c : Nat) : fieldType (headerField t c) = t := by
  have : ∀ t c, c < 8 → fieldType (headerField t c) = t := by
    intro t c hc; cases t <;> interval_cases c <;> rfl
  have hmod : headerField t c = headerField t (c % 8) := by
    unfold headerField; congr 1; apply BitVec.eq_of_toNat_eq; simp
  rw [hmod]; exact this t _ (Nat.mod_lt _ (by decide))

theorem fieldCode_headerField (t : Table) {c : Nat} (hc : c < 8) : fieldCode (headerField t c) = c := by
  cases t <;> interval_cases c <;> rfl

/-- Rule R155: the fields of a header byte. -/
@[simp] theorem lowField_headerByte (a b : BitVec 4) : lowField (headerByte a b) = a := by
  revert a b; decide

@[simp] theorem highField_headerByte (a b : BitVec 4) : highField (headerByte a b) = b := by
  revert a b; decide

end Sys2Proof.Machine
end

