-- ==== Sys2Proof/Laws/Stream.lean ====
section
/-! SUPPORT. What a whole ENCV and a whole DECV do to each field of State (rules R151, R153): one lemma per field. -/

namespace Sys2Proof.Machine

variable (s : State)

/-! `State.encodeStep` -/

@[simp] theorem State.encodeStep_params (v : Nat) : (s.encodeStep v).params = s.params := by
  simp [State.encodeStep]
@[simp] theorem State.encodeStep_cfg (v : Nat) : (s.encodeStep v).cfg = s.cfg := by
  simp [State.encodeStep]
@[simp] theorem State.encodeStep_hargs (v : Nat) : (s.encodeStep v).hargs = s.hargs := by
  simp [State.encodeStep]
@[simp] theorem State.encodeStep_seed (v : Nat) : (s.encodeStep v).seed = s.seed := by
  simp [State.encodeStep]
@[simp] theorem State.encodeStep_mode (v : Nat) : (s.encodeStep v).mode = s.mode := by
  simp [State.encodeStep]
@[simp] theorem State.encodeStep_errv (v : Nat) : (s.encodeStep v).errv = s.errv := by
  simp [State.encodeStep]
@[simp] theorem State.encodeStep_errcode (v : Nat) : (s.encodeStep v).errcode = s.errcode := by
  simp [State.encodeStep]
@[simp] theorem State.encodeStep_hdrIn (v : Nat) : (s.encodeStep v).hdrIn = s.hdrIn := by
  simp [State.encodeStep]
@[simp] theorem State.encodeStep_payIn (v : Nat) : (s.encodeStep v).payIn = s.payIn := by
  simp [State.encodeStep]
@[simp] theorem State.encodeStep_draws (v : Nat) : (s.encodeStep v).draws = s.draws := by
  simp [State.encodeStep]
@[simp] theorem State.encodeStep_tf (v : Nat) : (s.encodeStep v).tf = (s.advance v).tf := by
  simp [State.encodeStep]
@[simp] theorem State.encodeStep_td (v : Nat) : (s.encodeStep v).td = (s.advance v).td := by
  simp [State.encodeStep]
@[simp] theorem State.encodeStep_fcmHash (v : Nat) : (s.encodeStep v).fcmHash = (s.advance v).fcmHash := by
  simp [State.encodeStep]
@[simp] theorem State.encodeStep_dfcmHash (v : Nat) : (s.encodeStep v).dfcmHash = (s.advance v).dfcmHash := by
  simp [State.encodeStep]
@[simp] theorem State.encodeStep_prior (v : Nat) : (s.encodeStep v).prior = (s.advance v).prior := by
  simp [State.encodeStep]
@[simp] theorem State.encodeStep_half (v : Nat) :
    (s.encodeStep v).half = !s.half := by
  cases h : s.half <;> simp [State.encodeStep, State.packEnc, h]
@[simp] theorem State.encodeStep_pend (v : Nat) :
    (s.encodeStep v).pend = if s.half then 0 else (s.encodeValue v).field := by
  cases h : s.half <;> simp [State.encodeStep, State.packEnc, h]
@[simp] theorem State.encodeStep_hcount (v : Nat) :
    (s.encodeStep v).hcount = if s.half then s.hcount + 1 else s.hcount := by
  cases h : s.half <;> simp [State.encodeStep, State.packEnc, h]
@[simp] theorem State.encodeStep_vcount (v : Nat) :
    (s.encodeStep v).vcount = s.vcount + 1 := by
  simp [State.encodeStep]
@[simp] theorem State.encodeStep_pcount (v : Nat) :
    (s.encodeStep v).pcount = s.pcount + BitVec.ofNat 64 (s.encodeValue v).k := by
  simp [State.encodeStep]
@[simp] theorem State.encodeStep_hdrOut (v : Nat) :
    (s.encodeStep v).hdrOut = if s.half = true ∧ s.mode = .enc then s.hdrOut ++ [headerByte s.pend (s.encodeValue v).field]
      else s.hdrOut := by
  cases h : s.half <;> by_cases hm : s.mode = .enc <;> simp [State.encodeStep, State.packEnc, h, hm]
@[simp] theorem State.encodeStep_payOut (v : Nat) :
    (s.encodeStep v).payOut = if s.mode = .enc then s.payOut ++ (s.encodeValue v).bytes else s.payOut := by
  by_cases hm : s.mode = .enc <;> simp [State.encodeStep, State.emitPayload, hm]
@[simp] theorem State.encodeStep_cmds (v : Nat) :
    (s.encodeStep v).cmds = s.cmds.tail := by
  simp [State.encodeStep]
@[simp] theorem State.encodeStep_resps (v : Nat) :
    (s.encodeStep v).resps = s.resps ++ [⟨true, encvData (s.encodeValue v)⟩] := by
  simp [State.encodeStep]

/-! `State.decodeStep` -/

/-- The value a DECV decodes from a field, with the payload bytes at the head of PAY_IN (rule R153). -/
def State.decodedValue (field : BitVec 4) : Nat :=
  s.decodeValue field (s.payIn.take (payLen s.cfg.w (fieldCode field)))

variable (field : BitVec 4) (source : Option Byte)

theorem State.decodeStep_eq : s.decodeStep field source =
    (((((s.payDrop (payLen s.cfg.w (fieldCode field))).unpackDec source).advance
      (s.decodedValue field)).countValue (payLen s.cfg.w (fieldCode field))).respond
        (BitVec.ofNat 64 (s.decodedValue field))) := rfl

@[simp] theorem State.decodeStep_params : (s.decodeStep field source).params = s.params := by
  simp [State.decodeStep_eq]
@[simp] theorem State.decodeStep_cfg : (s.decodeStep field source).cfg = s.cfg := by
  simp [State.decodeStep_eq]
@[simp] theorem State.decodeStep_hargs : (s.decodeStep field source).hargs = s.hargs := by
  simp [State.decodeStep_eq]
@[simp] theorem State.decodeStep_seed : (s.decodeStep field source).seed = s.seed := by
  simp [State.decodeStep_eq]
@[simp] theorem State.decodeStep_mode : (s.decodeStep field source).mode = s.mode := by
  simp [State.decodeStep_eq]
@[simp] theorem State.decodeStep_errv : (s.decodeStep field source).errv = s.errv := by
  simp [State.decodeStep_eq]
@[simp] theorem State.decodeStep_errcode : (s.decodeStep field source).errcode = s.errcode := by
  simp [State.decodeStep_eq]
@[simp] theorem State.decodeStep_hdrOut : (s.decodeStep field source).hdrOut = s.hdrOut := by
  simp [State.decodeStep_eq]
@[simp] theorem State.decodeStep_payOut : (s.decodeStep field source).payOut = s.payOut := by
  simp [State.decodeStep_eq]
@[simp] theorem State.decodeStep_draws : (s.decodeStep field source).draws = s.draws := by
  simp [State.decodeStep_eq]
@[simp] theorem State.decodeStep_tf :
    (s.decodeStep field source).tf = (s.advance (s.decodedValue field)).tf := by
  simp [State.decodeStep_eq]
@[simp] theorem State.decodeStep_td :
    (s.decodeStep field source).td = (s.advance (s.decodedValue field)).td := by
  simp [State.decodeStep_eq, State.delta]
@[simp] theorem State.decodeStep_fcmHash :
    (s.decodeStep field source).fcmHash = (s.advance (s.decodedValue field)).fcmHash := by
  simp [State.decodeStep_eq, State.nextFcmHash]
@[simp] theorem State.decodeStep_dfcmHash :
    (s.decodeStep field source).dfcmHash = (s.advance (s.decodedValue field)).dfcmHash := by
  simp [State.decodeStep_eq, State.nextDfcmHash, State.delta]
@[simp] theorem State.decodeStep_prior :
    (s.decodeStep field source).prior = (s.advance (s.decodedValue field)).prior := by
  simp [State.decodeStep_eq]
@[simp] theorem State.decodeStep_half : (s.decodeStep field source).half = source.isSome := by
  cases source <;> simp [State.decodeStep_eq, State.unpackDec]
@[simp] theorem State.decodeStep_pend : (s.decodeStep field source).pend = (source.map highField).getD 0 := by
  cases source <;> simp [State.decodeStep_eq, State.unpackDec]
@[simp] theorem State.decodeStep_hcount :
    (s.decodeStep field source).hcount = if source.isSome then s.hcount + 1 else s.hcount := by
  cases source <;> simp [State.decodeStep_eq, State.unpackDec]
@[simp] theorem State.decodeStep_vcount : (s.decodeStep field source).vcount = s.vcount + 1 := by
  simp [State.decodeStep_eq]
@[simp] theorem State.decodeStep_pcount :
    (s.decodeStep field source).pcount = s.pcount + BitVec.ofNat 64 (payLen s.cfg.w (fieldCode field)) := by
  simp [State.decodeStep_eq]
@[simp] theorem State.decodeStep_hdrIn :
    (s.decodeStep field source).hdrIn = if source.isSome then s.hdrIn.drop 1 else s.hdrIn := by
  cases source <;> simp [State.decodeStep_eq, State.unpackDec, State.hdrDrop, State.payDrop]
@[simp] theorem State.decodeStep_payIn :
    (s.decodeStep field source).payIn = s.payIn.drop (payLen s.cfg.w (fieldCode field)) := by
  cases source <;> simp [State.decodeStep_eq, State.unpackDec, State.hdrDrop, State.payDrop]
@[simp] theorem State.decodeStep_cmds : (s.decodeStep field source).cmds = s.cmds.tail := by
  simp [State.decodeStep_eq]
@[simp] theorem State.decodeStep_resps :
    (s.decodeStep field source).resps = s.resps ++ [⟨true, BitVec.ofNat 64 (s.decodedValue field)⟩] := by
  simp [State.decodeStep_eq]

end Sys2Proof.Machine
end

