-- ==== Sys2Proof/Tests/Slice0.lean ====
section
/-! SUPPORT. The model's own tests. Expected values are the spec's worked examples and vectors (`95_test_vectors.md`
and the examples in the rules), or hand calculation from the rules. Then one witness for the hypotheses of each
statement. -/

namespace Sys2Proof.Tests

open Sys2Proof.Machine

/-! ### Well-formedness: one ill-formed term per check -/

theorem test_wf_refuses_begin_mode_zero : (Instr.beginCall 0 false).wellFormed = false := by decide
theorem test_wf_refuses_reserved_sel :
    ∀ sel : BitVec 4, (Instr.rdreg sel).wellFormed = decide (sel.toNat ≤ 10) := by decide
theorem test_wf_accepts_begin_modes :
    ∀ mode : BitVec 2, (Instr.beginCall mode true).wellFormed = decide (mode ≠ 0) := by decide

/-! ### Decoding: each command's word, its fields written out as the format tables give them (rules R82-R89; the
words are those of section 2.1) -/

/-- What a word decodes to, with operand 0xABC. -/
def decodes (cmd : CmdWord) : Option Instr := (decode ⟨cmd, 0xABC⟩).toOption

theorem test_decode_nop : decodes (0#24 ++ 0x00#8) = some .nop := by decide
/-- 31..29 reserved, DLOG2, reserved, FLOG2, reserved, W, opcode: 0x04030101. -/
theorem test_decode_cfg : decodes (0#3 ++ 0b00100#5 ++ 0#3 ++ 0b00011#5 ++ 0#7 ++ 1#1 ++ 0x01#8)
    = some (.cfg .w32 3 4) := by decide
/-- RD, LD, RF, LF, opcode: 0xA02C0602. -/
theorem test_decode_hargs : decodes (0b101000#6 ++ 0b000010#6 ++ 0b110000#6 ++ 0b000110#6 ++ 0x02#8)
    = some (.hargs 6 48 2 40) := by decide
theorem test_decode_seed : decodes (0#24 ++ 0x03#8) = some (.seed 0xABC) := by decide
theorem test_decode_defaults : decodes (0#24 ++ 0x04#8) = some .defaults := by decide
theorem test_decode_clear : decodes (0#24 ++ 0x05#8) = some .clear := by decide
/-- reserved, K, reserved, MODE, opcode: 0x00001206. -/
theorem test_decode_begin : decodes (0#19 ++ 1#1 ++ 0#2 ++ 0b10#2 ++ 0x06#8) = some (.beginCall 2 true) := by decide
theorem test_decode_encv : decodes (0#24 ++ 0x07#8) = some (.encv 0xABC) := by decide
theorem test_decode_decv : decodes (0#24 ++ 0x08#8) = some .decv := by decide
theorem test_decode_end : decodes (0#24 ++ 0x09#8) = some .endCall := by decide
/-- reserved, SEL, opcode: 0x0000090A. -/
theorem test_decode_rdreg : decodes (0#20 ++ 0b1001#4 ++ 0x0A#8) = some (.rdreg 9) := by decide
/-- IDX, T, opcode: 0x0000070B, and 0xFFFFFF0B, the largest index. -/
theorem test_decode_rdtbl : decodes (3#23 ++ 1#1 ++ 0x0B#8) = some (.rdtbl .dfcm 3) ∧
    decodes 0xFFFFFF0B = some (.rdtbl .dfcm 0x7FFFFF) := by decide
theorem test_decode_wrtbl : decodes (1#23 ++ 0#1 ++ 0x0C#8) = some (.wrtbl .fcm 1 0xABC) := by decide
theorem test_decode_errclr : decodes (0#24 ++ 0x0D#8) = some .errclr := by decide

/-- The illegal words of section 2.1, by the reason each is refused for. -/
theorem test_decode_refuses : [0x0000000E, 0x000000FF].all (fun w => decode ⟨w, 0⟩ == .error .reservedOpcode) ∧
    [0x00000100, 0x00000107, 0x0000010D, 0x00000506, 0x00180201, 0x20000001, 0x00200001].all
      (fun w => decode ⟨w, 0⟩ == .error .reservedBit) ∧
    decode ⟨0x00000006, 0⟩ = .error .beginModeZero ∧ decode ⟨0x00000B0A, 0⟩ = .error .selReserved := by decide

theorem test_encode_words : encodeWord (.cfg .w64 10 10) = 0x0A0A0001 ∧ encodeWord (.hargs 1 22 4 23) = 0x5C458102 ∧
    encodeWord (.beginCall 3 false) = 0x00000306 ∧ encodeWord (.rdtbl .fcm 4) = 0x0000080B := by decide

theorem test_table_word : decodeTableWord 32 0x0000070C = some (.wrtbl .dfcm 3 0) := by decide

/-! ### The datapath (section 2.2) -/

theorem test_hash : tableHash 9 0x4059200000000000 6 48 4 = 9 ∧ tableHash 0x3FF 0xFFFFFFFFFFFFFFFF 6 48 10 = 0x3F ∧
    tableHash 7 0xFFFFFFFF 1 22 3 = 1 ∧ tableHash 5 0xFFFFFFFFFFFFFFFF 63 63 0 = 0 := by decide

/-- Residual, leading zero bytes, code, payload length at W = 64. -/
theorem test_lzbc_w64 : [0, 0xFF, 0x10000, 0xFFFFFFFF, 0x100000000, 0xFFFFFFFFFFFF, 0x8000000000000000].map
    (fun r => (lzbc .w64 r, lzCode .w64 (lzbc .w64 r), payLen .w64 (lzCode .w64 (lzbc .w64 r)))) =
    [(8, 7, 0), (7, 6, 1), (5, 4, 3), (4, 3, 5), (3, 3, 5), (2, 2, 6), (0, 0, 8)] := by decide

theorem test_lzbc_w32 : [0, 0xFF, 0xFFFF, 0x10000, 0x80000000].map (fun r => (lzbc .w32 r, payLen .w32 (lzbc .w32 r))) =
    [(4, 0), (3, 1), (2, 2), (1, 3), (0, 4)] := by decide

theorem test_serialize : serialize 0xDEADBEEF 5 = [0x00, 0xDE, 0xAD, 0xBE, 0xEF] ∧
    deserialize [0xDE, 0xAD, 0xBE, 0xEF, 0x00] = 0xDEADBEEF00 := by decide

theorem test_selection : selectPredictor 5 5 = .fcm ∧ selectPredictor 0x18 0x08 = .dfcm ∧
    selectResidual 0x100 0xFF = 0xFF := by decide

/-! ### One step on a small state -/

/-- An idle engine: depths 2^4, sizes 4, cleared tables. -/
def idle (w : Width) : State :=
  { State.resetWith ⟨4, 4⟩ 0 with cfg := ⟨w, 2, 2⟩, tf := Ram.cleared, td := Ram.cleared }

/-- The same engine in a call. -/
def inCall (w : Width) (mode : Mode) : State := { idle w with mode := mode }

/-- An idle engine with one-slot tables. -/
def oneSlot (mode : Mode) : State := { inCall .w64 mode with cfg := ⟨.w64, 0, 0⟩ }

/-- A halted engine: a bad header in a decode call. -/
def halted : State := { inCall .w32 .dec with errv := true, errcode := 5, hdrIn := [0x05], payIn := [0x11, 0x22] }

/-- What a field of the next state is, if there is a next state. -/
def after {α : Type} (o : Result) (f : State → α) : Option α :=
  match o with
  | .next s => some (f s)
  | .fault _ => none
  | .refused _ => none

/-- The last response. -/
def lastResponse (s : State) : Option (Bool × Word) := s.resps.getLast?.map fun r => (r.ok, r.data)

/-- R180: accepted while halted, and the first error's code stays. -/
theorem test_nop_halted : after (exec .nop halted) (fun t => (lastResponse t, t.errcode)) =
    some (some (true, 0), 5) := by decide

/-- V-C2: PRIOR = SEED mod 2^32. -/
theorem test_cfg_loads_prior : after (exec (.cfg .w32 3 4) { idle .w64 with seed := 0xFFFFFFFF00000001, fcmHash := 3 })
    (fun t => (t.prior, t.fcmHash, t.cfg)) = some (1, 0, ⟨.w32, 3, 4⟩) := by decide
/-- P7: CFGRANGE. -/
theorem test_cfg_range : after (exec (.cfg .w64 5 0) (idle .w64)) (fun t => (lastResponse t, t.status, t.cfg)) =
    some (some (false, 0), 0x308, ⟨.w64, 2, 2⟩) := by decide

/-- V-C3. -/
theorem test_hargs_view : after (exec (.hargs 63 63 63 63) (idle .w64)) (fun t => t.view .hargs) =
    some 0xFFFFFF00 := by decide
/-- V-C2: SEED does not touch PRIOR. -/
theorem test_seed_keeps_prior : after (exec (.seed 0xFFFFFFFF00000001) (idle .w64)) (fun t => (t.seed, t.prior)) =
    some (0xFFFFFFFF00000001, 0) := by decide
/-- R134: the defaults of W = 32. -/
theorem test_defaults_w32 : after (exec .defaults { idle .w32 with seed := 9, prior := 1 })
    (fun t => (t.view .hargs, t.seed, t.prior)) = some (0x5C458100, 0, 1) := by decide
/-- R135: slots above the configured size too. -/
theorem test_clear_all : after (exec .clear { idle .w64 with tf := ⟨.unspecified 0, [(1, 7), (9, 8)]⟩ })
    (fun t => (t.tf.read 1, t.tf.read 9, t.tf.read 12)) = some (0, 0, 0) := by decide

/-- R150: K = 0 restarts, and the counters restart. -/
theorem test_begin_fresh : after (exec (.beginCall 1 false)
    { idle .w64 with seed := 7, prior := 5, fcmHash := 3, dfcmHash := 2, vcount := 4 })
    (fun t => (t.mode, t.prior, t.fcmHash, t.dfcmHash, t.vcount)) = some (.enc, 7, 0, 0, 0) := by decide
/-- R150: K = 1 continues. -/
theorem test_begin_continued : after (exec (.beginCall 3 true)
    { idle .w64 with seed := 7, prior := 5, fcmHash := 3, dfcmHash := 2, hcount := 4 })
    (fun t => (t.mode, t.prior, t.fcmHash, t.dfcmHash, t.hcount)) = some (.dec, 5, 3, 2, 0) := by decide

/-- R151's example. -/
theorem test_encv_first : after (exec (.encv 0xDEADBEEF) (oneSlot .enc))
    (fun t => (lastResponse t, t.payOut, t.hdrOut, t.status, t.prior)) =
    some (some (true, 0x305), [0x00, 0xDE, 0xAD, 0xBE, 0xEF], [], 0x35, 0xDEADBEEF) := by decide
/-- P4's second value. -/
theorem test_encv_second : after (exec (.encv 0xDE731351EF) { oneSlot .enc with
      half := true, pend := 3, prior := 0xDEADBEEF
      tf := ⟨.zero, [(0, 0xDEADBEEF)]⟩, td := ⟨.zero, [(0, 0xDEADBEEF)]⟩ })
    (fun t => (lastResponse t, t.payOut, t.hdrOut, t.status, t.td.read 0)) =
    some (some (true, 0x305), [0xDE, 0xAD, 0xBE, 0xEF, 0x00], [0x33], 1, 0xDD94659300) := by decide

/-- R153's example. -/
theorem test_decv_fresh : after (exec .decv { oneSlot .dec with
      hdrIn := [0x33], payIn := [0x00, 0xDE, 0xAD, 0xBE, 0xEF, 0x99] })
    (fun t => (lastResponse t, t.payIn, t.hdrIn, t.status, t.pcount)) =
    some (some (true, 0xDEADBEEF), [0x99], [], 0x37, 5) := by decide
/-- P5: BADHDR consumes nothing. -/
theorem test_decv_bad_header : after (exec .decv { halted with errv := false, errcode := 0 })
    (fun t => (lastResponse t, t.status, t.hdrIn, t.payIn)) =
    some (some (false, 0), 0x50B, [0x05], [0x11, 0x22]) := by decide

/-- R154's example: the odd last field leaves as 0x0F. -/
theorem test_end_odd : after (exec .endCall { inCall .w64 .enc with half := true, pend := 0xF, pcount := 16, hcount := 2 })
    (fun t => (lastResponse t, t.hdrOut, t.mode, t.half, t.hcount)) =
    some (some (true, 16), [0x0F], .idle, false, 3) := by decide
/-- R154: a decode call drops it. -/
theorem test_end_dec : after (exec .endCall { inCall .w64 .dec with half := true, pend := 0xF, hcount := 2 })
    (fun t => (t.hdrOut, t.hcount, t.pend)) = some ([], 2, 0) := by decide

/-- P5's STATUS read, while halted. -/
theorem test_rdreg_status : after (exec (.rdreg 0) halted) lastResponse = some (some (true, 0x50B)) := by decide
/-- V-C1: RDREG params after reset. -/
theorem test_rdreg_params : after (exec (.rdreg 10) State.reset) lastResponse = some (some (true, 0x1717)) := by decide

/-- P7: BADIDX at the configured size. -/
theorem test_rdtbl_bound : after (exec (.rdtbl .fcm 4) (idle .w64)) (fun t => t.status) = some 0x408 := by decide
theorem test_rdtbl_slot : after (exec (.rdtbl .fcm 3) { idle .w32 with tf := ⟨.zero, [(3, 0xF00000000000ABC)]⟩ })
    lastResponse = some (some (true, 0xF00000000000ABC)) := by decide
/-- R183's example. -/
theorem test_wrtbl : after (exec (.wrtbl .dfcm 3 0xABC) (idle .w64)) (fun t => (t.td.read 3, t.td.read 2, t.tf.read 3)) =
    some (0xABC, 0, 0) := by decide
theorem test_wrtbl_in_call : after (exec (.wrtbl .dfcm 3 0xABC) (inCall .w64 .enc)) (fun t => (t.status, t.td.read 3)) =
    some (0x209, 0) := by decide
/-- R184's example. -/
theorem test_errclr : after (exec .errclr halted) (fun t => (lastResponse t, t.status, t.hdrIn)) =
    some (some (true, 0), 0, [0x05]) := by decide

/-- The step takes the word at the head of the command port; an illegal one raises ILLEGAL (P7). -/
theorem test_step_illegal : after (step (State.reset.withFetchWord 32 0x0E)) (fun t => (lastResponse t, t.status)) =
    some (some (false, 0), 0x108) := by decide
theorem test_step_runs : after (step (State.reset.withFetchWord 32 0x02020001)) (fun t => (t.cfg, t.cmds)) =
    some (⟨.w64, 2, 2⟩, []) := by decide
/-- R227: a halted engine rejects a word with a reserved opcode and keeps the first code. -/
theorem test_step_illegal_halted : after (step (halted.withFetchWord 32 0x0E)) (fun t => (lastResponse t, t.errcode)) =
    some (some (false, 0), 5) := by decide

/-! ### Witnesses: concrete states and operands that meet all hypotheses of each statement together, for each clause
that has its own. -/

theorem idle_inv (w : Width) : (idle w).Inv := by cases w <;> constructor <;> decide
theorem inCall_inv (w : Width) (m : Mode) : (inCall w m).Inv := by cases w <;> cases m <;> constructor <;> decide

/-- A decode call with a fresh header byte, both nibbles `code`, and five payload bytes. -/
def decFresh (w : Width) (code : BitVec 4) : State :=
  { inCall w .dec with hdrIn := [code ++ code], payIn := [0, 0xDE, 0xAD, 0xBE, 0xEF] }

/-- A decode call with a pending high nibble. -/
def decPending (w : Width) (code : BitVec 4) : State :=
  { inCall w .dec with half := true, pend := code, payIn := [0, 0xDE, 0xAD, 0xBE, 0xEF] }

theorem decFresh_inv (w : Width) (code : BitVec 4) : (decFresh w code).Inv :=
  have h := inCall_inv w .dec
  ⟨h.1, h.2, h.3, h.4, h.5, h.6, h.7, h.8, h.9, h.10, h.11⟩

theorem decPending_inv (w : Width) (code : BitVec 4) : (decPending w code).Inv :=
  have h := inCall_inv w .dec
  ⟨h.1, h.2, h.3, h.4, h.5, (fun hf => nomatch hf), (fun hm => nomatch hm), h.8, h.9, h.10, h.11⟩

/-- A state with one command presented. -/
def presented (s : State) (cmd : CmdWord) : State := { s with cmds := [⟨cmd, 0xABC⟩] }

theorem witness_DecodeReadsBackEveryEncoding : (Instr.beginCall 1 false).wellFormed = true ∧
    (Instr.beginCall 3 true).wellFormed = true ∧ (Instr.rdreg 0).wellFormed = true ∧
    (Instr.rdreg 10).wellFormed = true ∧ (Instr.wrtbl .dfcm 0x7FFFFF 5).wellFormed = true := by decide

theorem witness_DecodedWordIsTheEncoding : decode ⟨0x00000007, 9⟩ = .ok (.encv 9) ∧
    decode ⟨0x00000008, 9⟩ = .ok .decv := by decide

/-- An engine that is not halted; and a halted one, with a reserved opcode and with a NOP that has a reserved bit. -/
theorem witness_IllegalWordsRaiseIllegal :
    ([0x0E, 0xFF, 0x100, 0x80000007, 0x201, 0x200001, 0x20000001, 0x06, 0x506, 0x2106, 0xB0A, 0xF0A, 0x100A].all
      fun w => (decode ⟨w, 0⟩).toOption.isNone) = true ∧
    (presented (idle .w64) 0x0E).cmds = ⟨0x0E, 0xABC⟩ :: [] ∧ IllegalWord 0x0E ∧
    IllegalWord 0xF0A ∧ (presented (idle .w64) 0x0E).errv = false ∧
    (presented halted 0x100).cmds = ⟨0x100, 0xABC⟩ :: [] ∧ IllegalWord 0x100 ∧ (presented halted 0x100).errv = true ∧
    (presented halted 0x0E).errv = true := by
  refine ⟨by decide, rfl, ?_, ?_, rfl, rfl, ?_, rfl, rfl⟩ <;> unfold IllegalWord <;> decide

theorem witness_StepRunsDecodedCommand : (presented (idle .w64) 0x05).cmds = ⟨0x05, 0xABC⟩ :: [] ∧
    decode ⟨0x05, 0xABC⟩ = .ok .clear := by decide

theorem witness_StepWithoutCommandChangesNothing : State.reset.cmds = [] := rfl

/-- A step that completes a command, and a step of a DECV that waits. -/
theorem witness_EachCommandYieldsOneResponse :
    (∃ t, step (presented (idle .w64) 0x00) = .next t) ∧ ∃ t, step (presented (inCall .w64 .dec) 0x08) = .next t :=
  ⟨⟨_, rfl⟩, ⟨_, rfl⟩⟩

theorem witness_StepNeverStops : (idle .w64).Inv := idle_inv _

theorem witness_StepKeepsTheSixInvariants : (idle .w64).SixInvariants ∧ ∃ t, step (idle .w64) = .next t :=
  ⟨by constructor <;> decide, _, rfl⟩

theorem witness_StepKeepsInvariant : (idle .w64).Inv ∧ ∃ t, step (idle .w64) = .next t := ⟨idle_inv _, _, rfl⟩

theorem witness_HostActionsKeepInvariant : (idle .w32).Inv := idle_inv _

theorem witness_ReachableStatesAreGood : State.Reachable (State.reset.host (.present ⟨0, 0⟩)) :=
  .host _ (.reset _ _)

theorem witness_ErrorsArePrecise : ∃ t, step (presented (idle .w64) 0x07) = .next t ∧
    t.resps = (presented (idle .w64) 0x07).resps ++ [⟨false, 0⟩] := ⟨_, rfl, rfl⟩

theorem witness_HaltedEngineRejects : halted.errv = true := rfl

/-- A rejected DECV, and an ERRCLR. -/
theorem witness_OnlyErrclrLeavesHalt : halted.errv = true ∧ (∃ t, step (presented halted 0x08) = .next t) ∧
    ∃ t, step (presented halted 0x0D) = .next t := ⟨rfl, ⟨_, rfl⟩, ⟨_, rfl⟩⟩

theorem witness_SequencingErrors : (inCall .w64 .size).errv = false ∧ (inCall .w64 .size).mode ≠ .idle ∧
    (1 : BitVec 2) ≠ 0 ∧ (inCall .w64 .dec).mode = .dec ∧ (inCall .w64 .enc).mode ≠ .dec ∧ (idle .w64).mode = .idle := by
  decide

/-- One above the RAM depth, and the first index at or above the configured size, for each table. -/
theorem witness_RangeErrors : (idle .w64).errv = false ∧ (idle .w64).mode = .idle ∧
    (idle .w64).params.maxLog2F.val < (5 : BitVec 5).toNat ∧ (idle .w64).params.maxLog2D.val < (5 : BitVec 5).toNat ∧
    2 ^ (idle .w64).cfg.flog2.toNat ≤ (4 : BitVec 23).toNat ∧ 2 ^ (idle .w64).cfg.dlog2.toNat ≤ (4 : BitVec 23).toNat := by
  decide

/-- Codes 5 and 7, a fresh low nibble and a pending high one; and an engine at W = 64. -/
theorem witness_BadHeaderError : (decFresh .w32 0x5).errv = false ∧ (decFresh .w32 0x5).mode = .dec ∧
    (decFresh .w32 0x5).half = false ∧ (decFresh .w32 0x5).hdrIn = 0x55 :: [] ∧ (0x55 : Byte).extractLsb' 0 4 = 0x5#4 ∧
    (decPending .w32 0xF).half = true ∧ (decPending .w32 0xF).pend = 0xF ∧ (decFresh .w32 0x5).cfg.w = .w32 ∧
    5 ≤ (0x5 : BitVec 4).toNat % 8 ∧ 5 ≤ (0xF : BitVec 4).toNat % 8 ∧ (decFresh .w64 0x5).cfg.w = .w64 := by decide

/-- A command that writes registers, one that raises an error, and an ERRCLR. -/
theorem witness_RegistersChangeOnlyByTheirWriters : (∃ t, exec (.encv 5) (inCall .w64 .enc) = .next t) ∧
    (∃ t, exec .decv (idle .w64) = .next t ∧ t.errv ≠ (idle .w64).errv) ∧
    ∃ t, exec .errclr halted = .next t ∧ t.errcode ≠ halted.errcode :=
  ⟨⟨_, rfl⟩, ⟨_, rfl, by decide⟩, ⟨_, rfl, by decide⟩⟩

theorem witness_StreamsAreFifo : ∃ t, step (presented (decFresh .w64 0x3) 0x08) = .next t := ⟨_, rfl⟩

/-- Both exponents at the RAM depths. -/
theorem witness_CfgConfigures : (idle .w64).errv = false ∧ (idle .w64).mode = .idle ∧
    (4 : BitVec 5).toNat ≤ (idle .w64).params.maxLog2F.val ∧ (4 : BitVec 5).toNat ≤ (idle .w64).params.maxLog2D.val := by
  decide

theorem witness_HargsSeedDefaultsWriteTheirRegisters : (idle .w32).errv = false ∧ (idle .w32).mode = .idle := by decide

theorem witness_ClearZeroesBothTables : State.reset.errv = false ∧ State.reset.mode = .idle := by decide

theorem witness_BootGivesKnownState : State.reset.errv = false ∧ (idle .w32).errv = false ∧ State.reset.mode = .idle ∧
    (idle .w32).mode = .idle ∧ (1 : BitVec 2) ≠ 0 ∧ (4 : BitVec 5).toNat ≤ State.reset.params.maxLog2F.val ∧
    (4 : BitVec 5).toNat ≤ State.reset.params.maxLog2D.val ∧ (4 : BitVec 5).toNat ≤ (idle .w32).params.maxLog2F.val ∧
    (4 : BitVec 5).toNat ≤ (idle .w32).params.maxLog2D.val := by decide

theorem witness_BeginOpensCall : (idle .w64).errv = false ∧ (idle .w64).mode = .idle ∧ (1 : BitVec 2) ≠ 0 ∧
    (3 : BitVec 2) ≠ 0 := by decide

/-- An encode call and a SIZE call, with and without a held field. -/
theorem witness_EncvEncodesOneValue : (inCall .w64 .enc).Inv ∧ (inCall .w64 .enc).errv = false ∧
    ((inCall .w64 .enc).mode = .enc ∨ (inCall .w64 .enc).mode = .size) ∧ (inCall .w64 .enc).half = false ∧
    (inCall .w32 .size).Inv ∧ (inCall .w32 .size).mode = .size ∧
    ({ inCall .w64 .enc with half := true, pend := 3 } : State).Inv :=
  ⟨inCall_inv _ _, rfl, .inl rfl, rfl, inCall_inv _ _, rfl, by constructor <;> decide⟩

theorem witness_EncvIgnoresUpperHalfAtW32 : (inCall .w32 .enc).cfg.w = .w32 ∧
    (0xFFFFFFFF00000001 : Word).extractLsb' 0 32 = (1 : Word).extractLsb' 0 32 := by decide

/-- Code 4 at W = 32 (no payload byte), code 3 at W = 64 (exactly the five bytes there), fresh and pending. -/
theorem witness_DecvDecodesOneValue : (decFresh .w64 0x3).Inv ∧ (decPending .w32 0xC).Inv ∧
    (decFresh .w64 0x3).errv = false ∧ (decFresh .w64 0x3).mode = .dec ∧ (decFresh .w64 0x3).half = false ∧
    (decFresh .w64 0x3).hdrIn = 0x33 :: [] ∧ (0x33 : Byte).extractLsb' 0 4 = 0x3#4 ∧
    payLen .w64 ((0x3 : BitVec 4).toNat % 8) ≤ (decFresh .w64 0x3).payIn.length ∧
    (decPending .w32 0xC).half = true ∧ (decPending .w32 0xC).pend = 0xC ∧ (0xC : BitVec 4).toNat % 8 ≤ 4 ∧
    payLen .w32 ((0xC : BitVec 4).toNat % 8) ≤ (decPending .w32 0xC).payIn.length :=
  ⟨decFresh_inv _ _, decPending_inv _ _, by decide⟩

/-- No header byte; and a field (code 0 at W = 64) that calls for eight payload bytes where five are there. -/
theorem witness_DecvWaitsForItsInput : (presented (inCall .w64 .dec) 0x08).cmds = ⟨0x08, 0xABC⟩ :: [] ∧
    decode ⟨0x08, 0xABC⟩ = .ok .decv ∧ (presented (inCall .w64 .dec) 0x08).half = false ∧
    (presented (inCall .w64 .dec) 0x08).hdrIn = [] ∧ (presented (decPending .w64 0x8) 0x08).errv = false ∧
    (presented (decPending .w64 0x8) 0x08).mode = .dec ∧ (presented (decPending .w64 0x8) 0x08).half = true ∧
    (decPending .w64 0x8).payIn.length < payLen .w64 ((0x8 : BitVec 4).toNat % 8) ∧
    payLen .w64 ((0x8 : BitVec 4).toNat % 8) ≤ (decPending .w64 0x8).payIn.length + [1#8, 2, 3].length ∧
    (decPending .w64 0x8).Inv := by
  refine ⟨rfl, by decide, rfl, rfl, rfl, rfl, rfl, by decide, by decide, decPending_inv _ _⟩

theorem witness_EndClosesCall : (inCall .w64 .size).errv = false ∧ (inCall .w64 .size).mode ≠ .idle := by decide

theorem witness_RdregRespondsTheView : 11 ≤ (11 : BitVec 4).toNat ∧ 11 ≤ (15 : BitVec 4).toNat := by decide

/-- The highest index of each table. -/
theorem witness_RdtblRespondsTheSlot : (idle .w64).Inv ∧ (idle .w64).errv = false ∧ (idle .w64).mode = .idle ∧
    (3 : BitVec 23).toNat < 2 ^ (idle .w64).cfg.flog2.toNat ∧ (3 : BitVec 23).toNat < 2 ^ (idle .w64).cfg.dlog2.toNat :=
  ⟨idle_inv _, by decide⟩

theorem witness_WrtblWritesOneSlot : (idle .w32).Inv ∧ (idle .w32).errv = false ∧ (idle .w32).mode = .idle ∧
    (3 : BitVec 23).toNat < 2 ^ (idle .w32).sizeLog2 .fcm ∧ (3 : BitVec 23).toNat < 2 ^ (idle .w32).sizeLog2 .dfcm :=
  ⟨idle_inv _, by decide⟩

theorem witness_HashStaysInTable : (4 : Nat) ≤ 6 ∧ (0xFFFF : Nat) < 2 ^ 16 := by decide

theorem witness_LzbcIsTheLargest : 0xFFFFFFFF < 2 ^ widthBits .w32 ∧ 0xFFFFFFFFFFFFFFFF < 2 ^ widthBits .w64 ∧
    8 ≤ widthBytes .w64 ∧ 0 < 2 ^ (widthBits .w64 - 8 * 8) := by decide

theorem witness_CodeExpandsBack : 8 ≤ widthBytes .w64 ∧ 4 ≤ widthBytes .w32 := by decide

theorem witness_ResidualFitsItsPayload : 0xFFFFFFFF < 2 ^ widthBits .w32 := by decide

theorem witness_DeserializeUndoesSerialize : 0xFFFF < 2 ^ (8 * 2) ∧ 1 < 2 := by decide

theorem witness_SelectionTakesTheSmallerResidual : 0xFFFFFFFF < 2 ^ widthBits .w32 ∧ 0 < 2 ^ widthBits .w32 := by decide

/-- The largest value at W = 32; and a four-byte residual at W = 64, which gets five bytes. -/
theorem witness_EncodeValueFollowsTheRule : 0xFFFFFFFF < 2 ^ widthBits (inCall .w32 .enc).cfg.w ∧
    0xFFFFFFFF < 2 ^ widthBits (inCall .w64 .enc).cfg.w ∧ ((inCall .w64 .enc).encodeValue 0xFFFFFFFF).k = 5 := by decide

theorem witness_DecodeValueFollowsTheRule : [0xFF#8, 0xFF, 0xFF, 0xFF].length ≤ widthBytes (inCall .w32 .dec).cfg.w := by
  decide

theorem witness_EncodedValueDecodesBack : 0xFFFFFFFFFFFFFFFF < 2 ^ widthBits (inCall .w64 .enc).cfg.w := by decide

/-- A table whose slot 0 differs from the cleared one in its upper half only. -/
theorem witness_UpperSlotHalvesDoNotMatter : (inCall .w32 .enc).cfg.w = .w32 ∧
    ∀ i, ((⟨.zero, [(0, 0xFFFFFFFF00000000)]⟩ : Ram).read i).extractLsb' 0 32
      = ((inCall .w32 .enc).tf.read i).extractLsb' 0 32 := by
  refine ⟨rfl, fun i => ?_⟩
  cases i <;> rfl

theorem syncEq_refl (s : State) : s.SyncEq s := ⟨rfl, rfl, rfl, rfl, rfl, fun _ _ => rfl, fun _ _ => rfl⟩

/-- An encoder in a call, and a decoder given the field and the bytes of the value 5. -/
theorem witness_EncoderAndDecoderStayInStep :
    let e := inCall .w64 .enc
    let x := e.encodeValue ((5 : Word).toNat % 2 ^ widthBits e.cfg.w)
    let d := { inCall .w64 .dec with half := true, pend := x.field, payIn := x.bytes ++ [7] }
    e.Inv ∧ d.Inv ∧ e.SyncEq d ∧ e.errv = false ∧ d.errv = false ∧ (e.mode = .enc ∨ e.mode = .size) ∧ d.mode = .dec ∧
      d.half = true ∧ d.pend = x.field ∧ d.payIn = x.bytes ++ [7] :=
  ⟨inCall_inv _ _, by constructor <;> decide, ⟨rfl, rfl, rfl, rfl, rfl, fun _ _ => rfl, fun _ _ => rfl⟩,
    rfl, rfl, .inl rfl, rfl, rfl, rfl, rfl⟩

theorem witness_DecodeCallReturnsTheEncodedValues : (idle .w64).Inv ∧ (idle .w64).SyncEq (idle .w64) ∧
    (idle .w64).seed = (idle .w64).seed ∧ (idle .w64).errv = false ∧ (idle .w64).mode = .idle :=
  ⟨idle_inv _, syncEq_refl _, rfl, rfl, rfl⟩

theorem witness_CallCounts : (idle .w64).Inv ∧ (idle .w64).errv = false ∧ (idle .w64).mode = .idle ∧
    [1#64, 2, 3].length * 8 < 2 ^ 64 := ⟨idle_inv _, by decide⟩

theorem witness_SizeCallMatchesEncCall : (idle .w64).Inv ∧ (idle .w64).errv = false ∧ (idle .w64).mode = .idle :=
  ⟨idle_inv _, rfl, rfl⟩

theorem witness_ContinuedCallEqualsOneCall : (idle .w64).Inv ∧ (idle .w64).errv = false ∧ (idle .w64).mode = .idle ∧
    [1#64, 2].length % 2 = 0 := ⟨idle_inv _, by decide⟩

theorem witness_ZeroValueCall : (idle .w64).errv = false ∧ (idle .w64).mode = .idle ∧ (2 : BitVec 2) ≠ 0 := by decide

end Sys2Proof.Tests
end

/-! SUPPORT. The bounds of what the datapath writes into the cursors and PRIOR, the outcomes of a step, and rule R44's
six invariants: O11. -/

namespace Sys2Proof.Machine

/-- A register holds no more than the value written to it, whatever its width. -/
theorem toNat_ofNat_lt_of_lt {n v bound : Nat} (h : v < bound) : (BitVec.ofNat n v).toNat < bound := by
  rw [BitVec.toNat_ofNat]
  exact Nat.lt_of_le_of_lt (Nat.mod_le _ _) h

/-- Rule R124: the value of `k` bytes is below `2^(8k)`. -/
theorem deserialize_lt (bytes : List Byte) : deserialize bytes < 2 ^ (8 * bytes.length) := by
  induction bytes using List.reverseRecOn with
  | nil => decide
  | append_singleton front b ih =>
    have hb := b.isLt
    have hpow : 2 ^ (8 * (front.length + 1)) = 2 ^ (8 * front.length) * 2 ^ 8 := by rw [Nat.mul_succ, pow_add]
    have hstep : deserialize (front ++ [b]) = deserialize front * 256 + b.toNat := by simp [deserialize]
    rw [hstep, List.length_append, List.length_singleton, hpow]
    omega

/-- Rule R122: a payload is at most one word long. -/
theorem payLen_le (w : Width) (c : Nat) : payLen w c ≤ widthBytes w := Nat.sub_le _ _

/-- Rule R126: the value a DECV decodes is below 2^W. -/
theorem State.decodedValue_lt (s : State) (field : BitVec 4) :
    s.decodedValue field < 2 ^ widthBits s.cfg.w := by
  refine xorResidual_lt (Nat.lt_of_lt_of_le (deserialize_lt _) ?_) (s.pred_lt _)
  rw [widthBits_eq]
  refine Nat.pow_le_pow_right (by decide) (Nat.mul_le_mul_left 8 ?_)
  exact Nat.le_trans (List.length_take_le _ _) (payLen_le _ _)

/-- Rules R130, R150: PRIOR restarts below 2^W. -/
theorem State.restartPredictor_prior_lt (s : State) (w : Width) :
    (s.restartPredictor w).prior.toNat < 2 ^ widthBits w :=
  toNat_ofNat_lt_of_lt (Nat.mod_lt _ (two_pow_widthBits_pos w))

/-- Rule R115: the FCM cursor Advance computes is below the configured size. -/
theorem State.advance_fcmHash_lt (s : State) (v : Nat) :
    (s.advance v).fcmHash.toNat < 2 ^ s.cfg.flog2.toNat :=
  toNat_ofNat_lt_of_lt (tableHash_lt _ _ _ _ _)

/-- Rule R115: the DFCM cursor Advance computes is below the configured size. -/
theorem State.advance_dfcmHash_lt (s : State) (v : Nat) :
    (s.advance v).dfcmHash.toNat < 2 ^ s.cfg.dlog2.toNat :=
  toNat_ofNat_lt_of_lt (tableHash_lt _ _ _ _ _)

/-- Rule R220: the cause codes are 1..5. -/
theorem Cause.code_bounds (cause : Cause) : 1 ≤ cause.code.toNat ∧ cause.code.toNat ≤ 5 := by
  cases cause <;> decide

theorem Cause.code_ne_zero (cause : Cause) : cause.code ≠ 0 := by cases cause <;> decide

/-! What a step can do, for every property of the state alone -/

/-- A next state is the state itself (a wait), a rejection, an error entry, or the effect of the oldest command. -/
theorem step_outcomes {s t : State} (h : step s = .next t) :
    t = s ∨ t = s.reject ∨ (∃ cause, t = s.raise cause) ∨
      ∃ c rest i, s.cmds = c :: rest ∧ decode c = .ok i ∧ Effect s i t := by
  rcases step_cases h with ⟨_, ht⟩ | ⟨c, _, _, _, _, ht⟩ | ⟨c, rest, i, hc, hd, ht⟩
  · exact .inl (Host.Outcome.next.inj ht)
  · obtain rfl := Host.Outcome.next.inj ht
    rcases s.illegalWord_cases c.cmd with ⟨_, hr⟩ | hr
    · exact .inr (.inl hr)
    · exact .inr (.inr (.inl ⟨_, hr⟩))
  · rcases exec_cases ht.symm with ⟨_, _, hr⟩ | ⟨_, hr⟩ | ⟨_, _, _, _, hr⟩ | ⟨_, he⟩
    · exact .inr (.inl hr)
    · exact .inr (.inr (.inl hr))
    · exact .inl hr
    · exact .inr (.inr (.inr ⟨c, rest, i, hc, hd, he⟩))

/-- A property that rejections, error entries and effects keep is kept by every step. -/
theorem step_keeps {P : State → Prop} {s t : State} (hs : P s) (h : step s = .next t)
    (reject : P s.reject) (raise : ∀ cause, P (s.raise cause)) (effect : ∀ {i t}, Effect s i t → P t) : P t := by
  rcases step_outcomes h with rfl | rfl | ⟨cause, rfl⟩ | ⟨_, _, _, _, _, he⟩
  · exact hs
  · exact reject
  · exact raise cause
  · exact effect he

/-! Rule R44's six invariants -/

theorem State.SixInvariants.reject {s : State} (h : s.SixInvariants) : s.reject.SixInvariants := { h with }

/-- Rule R231: the first cause code is kept, and no cause code is 0. -/
theorem State.SixInvariants.raise {s : State} (h : s.SixInvariants) (cause : Cause) :
    (s.raise cause).SixInvariants :=
  { h with
    errv_iff := by
      cases hv : s.errv with
      | false => simpa [hv] using cause.code_ne_zero
      | true => simpa [hv] using h.errv_iff }

/-- A call opens with its mode and an empty packer, and leaves the predictor alone (rule R150). -/
theorem State.SixInvariants.openCall {s : State} (h : s.SixInvariants) (mode : Mode) :
    (s.openCall mode).SixInvariants :=
  { h with pend_zero := fun _ => rfl, half_zero := fun _ => rfl }

/-- A predictor that restarts at the width it is configured for is in range (rules R130, R150). -/
theorem State.SixInvariants.configure {s : State} (h : s.SixInvariants) (w : Width) (f d : BitVec 5) :
    (s.configure w f d).SixInvariants :=
  { h with
    fcmHash_lt := Nat.two_pow_pos _
    dfcmHash_lt := Nat.two_pow_pos _
    prior_lt := s.restartPredictor_prior_lt w }

/-- ENCV: the predictor advances by a W-bit value, and the packer holds a field exactly when HALF = 1. -/
theorem State.SixInvariants.encodeStep {s : State} (h : s.SixInvariants) (hm : s.mode ≠ .idle) {v : Nat}
    (hv : v < 2 ^ widthBits s.cfg.w) : (s.encodeStep v).SixInvariants where
  fcmHash_lt := by simpa using s.advance_fcmHash_lt v
  dfcmHash_lt := by simpa using s.advance_dfcmHash_lt v
  prior_lt := by simpa using toNat_ofNat_lt_of_lt (n := 64) hv
  pend_zero := by simp +contextual
  half_zero := by simp [hm]
  errv_iff := by simpa using h.errv_iff

/-- DECV: the predictor advances by a W-bit value, and a field is pending exactly when a fresh byte was taken. -/
theorem State.SixInvariants.decodeStep {s : State} (h : s.SixInvariants) (hm : s.mode ≠ .idle)
    (field : BitVec 4) (source : Option Byte) : (s.decodeStep field source).SixInvariants where
  fcmHash_lt := by simpa using s.advance_fcmHash_lt _
  dfcmHash_lt := by simpa using s.advance_dfcmHash_lt _
  prior_lt := by simpa using toNat_ofNat_lt_of_lt (n := 64) (s.decodedValue_lt field)
  pend_zero := by cases source <;> simp
  half_zero := by simp [hm]
  errv_iff := by simpa using h.errv_iff

theorem State.SixInvariants.effect {s t : State} {i : Instr} (h : s.SixInvariants) (he : Effect s i t) :
    t.SixInvariants := by
  cases he with
  | nop | hargs | seed | defaults | clear | rdreg | rdtbl => exact { h with }
  | cfg _ _ => exact { h.configure _ _ _ with }
  | beginFresh _ _ => exact { (h.openCall _).configure s.cfg.w s.cfg.flog2 s.cfg.dlog2 with }
  | beginContinued _ _ => exact { h.openCall _ with }
  | encv hm _ => exact h.encodeStep (by rcases hm with hm | hm <;> simp [hm]) (s.valueOperand_lt _)
  | decv hm _ _ _ _ => exact h.decodeStep (by simp [hm]) _ _
  | endCall _ =>
    exact {
      fcmHash_lt := by simpa using h.fcmHash_lt
      dfcmHash_lt := by simpa using h.dfcmHash_lt
      prior_lt := by simpa using h.prior_lt
      pend_zero := fun _ => rfl
      half_zero := fun _ => rfl
      errv_iff := by simpa using h.errv_iff }
  | @wrtbl tbl _ _ _ _ _ => cases tbl <;> exact { h with }
  | errclr => exact { h with pend_zero := fun _ => rfl, half_zero := fun _ => rfl, errv_iff := by simp }

/-- Rule R250: the reset values meet the six invariants, for every implementation's parameters. -/
theorem State.resetWith_sixInvariants (params : Params) (draws : Nat) :
    (State.resetWith params draws).SixInvariants where
  fcmHash_lt := Nat.two_pow_pos _
  dfcmHash_lt := Nat.two_pow_pos _
  prior_lt := Nat.two_pow_pos _
  pend_zero := fun _ => rfl
  half_zero := fun _ => rfl
  errv_iff := iff_of_true rfl rfl

/-- Settles O11: each outcome of a step keeps the six invariants, and the reset values meet them. -/
theorem stepKeepsTheSixInvariants : Obligations.StepKeepsTheSixInvariants := by
  refine ⟨fun s t hs h => ?_, fun s => ?_⟩
  · exact step_keeps hs h hs.reject hs.raise hs.effect
  · exact { State.resetWith_sixInvariants s.params s.draws with }

end Sys2Proof.Machine

/-! SUPPORT. Who writes what: the effects that can change each register (rules R22-R40), and O22. -/

namespace Sys2Proof.Machine

section Writers

variable {s t : State} {i : Instr}

/-- Rule R40: no command writes PARAMS. -/
theorem Effect.params (he : Effect s i t) : t.params = s.params := by cases he <;> simp

theorem Effect.draws (he : Effect s i t) : t.draws = s.draws := by cases he <;> simp

/-- Rule R22: CFG is written by the command CFG. -/
theorem Effect.cfg_writer (he : Effect s i t) (hne : t.cfg ≠ s.cfg) : ∃ w f d, i = .cfg w f d := by
  cases he with
  | cfg => exact ⟨_, _, _, rfl⟩
  | _ => simp at hne

/-- Rule R24: HARGS is written by HARGS and DEFAULTS. -/
theorem Effect.hargs_writer (he : Effect s i t) (hne : t.hargs ≠ s.hargs) :
    (∃ a b c d, i = .hargs a b c d) ∨ i = .defaults := by
  cases he with
  | hargs => exact .inl ⟨_, _, _, _, rfl⟩
  | defaults => exact .inr rfl
  | _ => simp at hne

/-- Rule R25: SEED is written by SEED and DEFAULTS. -/
theorem Effect.seed_writer (he : Effect s i t) (hne : t.seed ≠ s.seed) : (∃ o, i = .seed o) ∨ i = .defaults := by
  cases he with
  | seed => exact .inl ⟨_, rfl⟩
  | defaults => exact .inr rfl
  | _ => simp at hne

/-- Rules R29-R31: the cursors and PRIOR are written by CFG, a BEGIN with K = 0 and the value commands. -/
theorem Effect.predictor_writer (he : Effect s i t)
    (hne : t.fcmHash ≠ s.fcmHash ∨ t.dfcmHash ≠ s.dfcmHash ∨ t.prior ≠ s.prior) :
    (∃ w f d, i = .cfg w f d) ∨ (∃ m, i = .beginCall m false) ∨ (∃ o, i = .encv o) ∨ i = .decv := by
  cases he with
  | cfg => exact .inl ⟨_, _, _, rfl⟩
  | beginFresh => exact .inr (.inl ⟨_, rfl⟩)
  | encv => exact .inr (.inr (.inl ⟨_, rfl⟩))
  | decv => exact .inr (.inr (.inr rfl))
  | _ => simp at hne

/-- Rule R33: MODE is written by BEGIN, END and ERRCLR. -/
theorem Effect.mode_writer (he : Effect s i t) (hne : t.mode ≠ s.mode) :
    (∃ m k, i = .beginCall m k) ∨ i = .endCall ∨ i = .errclr := by
  cases he with
  | beginFresh | beginContinued => exact .inl ⟨_, _, rfl⟩
  | endCall => exact .inr (.inl rfl)
  | errclr => exact .inr (.inr rfl)
  | _ => simp at hne

/-- Rule R34: HALF and PEND are written by BEGIN, END, ERRCLR and the value commands. -/
theorem Effect.packer_writer (he : Effect s i t) (hne : t.half ≠ s.half ∨ t.pend ≠ s.pend) :
    (∃ m k, i = .beginCall m k) ∨ i = .endCall ∨ i = .errclr ∨ (∃ o, i = .encv o) ∨ i = .decv := by
  cases he with
  | beginFresh | beginContinued => exact .inl ⟨_, _, rfl⟩
  | endCall => exact .inr (.inl rfl)
  | errclr => exact .inr (.inr (.inl rfl))
  | encv => exact .inr (.inr (.inr (.inl ⟨_, rfl⟩)))
  | decv => exact .inr (.inr (.inr (.inr rfl)))
  | _ => simp at hne

/-- Rules R35, R36: VCOUNT and PCOUNT are written by BEGIN and the value commands. -/
theorem Effect.counts_writer (he : Effect s i t) (hne : t.vcount ≠ s.vcount ∨ t.pcount ≠ s.pcount) :
    (∃ m k, i = .beginCall m k) ∨ (∃ o, i = .encv o) ∨ i = .decv := by
  cases he with
  | beginFresh | beginContinued => exact .inl ⟨_, _, rfl⟩
  | encv => exact .inr (.inl ⟨_, rfl⟩)
  | decv => exact .inr (.inr rfl)
  | _ => simp at hne

/-- Rule R37: HCOUNT is written by BEGIN, the value commands and END. -/
theorem Effect.hcount_writer (he : Effect s i t) (hne : t.hcount ≠ s.hcount) :
    (∃ m k, i = .beginCall m k) ∨ ((∃ o, i = .encv o) ∨ i = .decv) ∨ i = .endCall := by
  cases he with
  | beginFresh | beginContinued => exact .inl ⟨_, _, rfl⟩
  | encv => exact .inr (.inl (.inl ⟨_, rfl⟩))
  | decv => exact .inr (.inl (.inr rfl))
  | endCall => exact .inr (.inr rfl)
  | _ => simp at hne

/-- Rules R38, R184: among the effects only ERRCLR writes ERRV and ERRCODE. -/
theorem Effect.error_writer (he : Effect s i t) (hne : t.errv ≠ s.errv ∨ t.errcode ≠ s.errcode) :
    i = .errclr ∧ t.errv = false ∧ t.errcode = 0 := by
  cases he with
  | errclr => exact ⟨rfl, rfl, rfl⟩
  | _ => simp at hne

/-- Rules R26, R27: a WRTBL writes the slot it names and no other. -/
theorem Effect.slot_writer (he : Effect s i t) (tbl : Table) (n : Nat) (hne : t.memRead tbl n ≠ s.memRead tbl n) :
    ((∃ o, i = .encv o) ∨ i = .decv) ∨ i = .clear ∨ ∃ idx o, i = .wrtbl tbl idx o ∧ n = idx.toNat := by
  have unchanged : t.tf = s.tf → t.td = s.td → False := fun hf hd => by
    cases tbl <;> simp [State.memRead, State.ram, hf, hd] at hne
  cases he with
  | encv => exact .inl (.inl ⟨_, rfl⟩)
  | decv => exact .inl (.inr rfl)
  | clear => exact .inr (.inl rfl)
  | @wrtbl written idx o =>
    by_cases hslot : (tbl, n) = (written, idx.toNat)
    · obtain ⟨rfl, rfl⟩ := Prod.mk.inj hslot
      exact .inr (.inr ⟨_, _, rfl, rfl⟩)
    · exact absurd (s.memWrite_memRead_other hslot o) hne
  | _ => exact (unchanged (by simp) (by simp)).elim

end Writers

@[simp] theorem State.reject_memRead (s : State) (tbl : Table) (n : Nat) :
    s.reject.memRead tbl n = s.memRead tbl n := rfl

@[simp] theorem State.raise_memRead (s : State) (cause : Cause) (tbl : Table) (n : Nat) :
    (s.raise cause).memRead tbl n = s.memRead tbl n := rfl

/-- Rule R231: error entry changes ERRV and ERRCODE on an engine that is not halted only, to a cause code. -/
theorem State.raise_error_status (s : State) (cause : Cause)
    (hne : (s.raise cause).errv ≠ s.errv ∨ (s.raise cause).errcode ≠ s.errcode) :
    s.errv = false ∧ (s.raise cause).errv = true ∧ 1 ≤ (s.raise cause).errcode.toNat ∧
      (s.raise cause).errcode.toNat ≤ 5 ∧ (s.raise cause).resps = s.resps ++ [⟨false, 0⟩] := by
  cases hv : s.errv with
  | false => simpa [hv] using cause.code_bounds
  | true => simp [hv] at hne

/-- Settles O22: a rejection and a wait write no register, an error entry writes the error status only, and each
effect writes what its command may write. -/
theorem registersChangeOnlyByTheirWriters : Obligations.RegistersChangeOnlyByTheirWriters := by
  intro i s t h
  rcases exec_cases h with ⟨_, _, rfl⟩ | ⟨_, cause, rfl⟩ | ⟨_, _, _, _, rfl⟩ | ⟨_, he⟩
  case inl => simp
  case inr.inl =>
    refine ⟨rfl, rfl, ?_, ?_, ?_, ?_, ?_, ?_, ?_, ?_, fun hne => .inr (s.raise_error_status cause hne), ?_⟩
    all_goals simp
  case inr.inr.inl => simp
  case inr.inr.inr =>
    exact ⟨he.params, he.draws, he.cfg_writer, he.hargs_writer, he.seed_writer, he.predictor_writer, he.mode_writer,
      he.packer_writer, he.counts_writer, he.hcount_writer, fun hne => .inl (he.error_writer hne), he.slot_writer⟩

end Sys2Proof.Machine

/-! SUPPORT. The invariants under the step, the host and reset: O12, O8, O10, O13 and O15. -/

namespace Sys2Proof.Machine

/-! The invariants the model adds to the six -/

/-- The invariants are rule R44's six, a legal CFG, a cause code in use, and canonical tables. -/
theorem State.inv_iff (s : State) :
    s.Inv ↔ s.SixInvariants ∧ s.cfgInRange s.cfg.flog2 s.cfg.dlog2 = true ∧ s.errcode.toNat ≤ 5 ∧ s.tablesWf := by
  simp only [State.cfgInRange, Bool.and_eq_true, decide_eq_true_eq]
  constructor
  · intro h
    exact ⟨{ h with }, ⟨h.flog2_le, h.dlog2_le⟩, h.errcode_le, h.tf_wf, h.td_wf⟩
  · rintro ⟨six, ⟨hf, hd⟩, hcode, htf, htd⟩
    exact { six with flog2_le := hf, dlog2_le := hd, errcode_le := hcode, tf_wf := htf, td_wf := htd }

/-- Rules R22, R130: only an accepted CFG changes CFG, and it was in range. -/
theorem Effect.keeps_cfgInRange {s t : State} {i : Instr} (h : s.cfgInRange s.cfg.flog2 s.cfg.dlog2 = true)
    (he : Effect s i t) : t.cfgInRange t.cfg.flog2 t.cfg.dlog2 = true := by
  by_cases hcfg : t.cfg = s.cfg
  · unfold State.cfgInRange at h ⊢
    rwa [he.params, hcfg]
  · obtain ⟨w, f, d, rfl⟩ := he.cfg_writer hcfg
    cases he with
    | cfg _ hrange => exact hrange

/-- Rule R220: an effect leaves the cause code, or clears it. -/
theorem Effect.keeps_errcode_le {s t : State} {i : Instr} (h : s.errcode.toNat ≤ 5) (he : Effect s i t) :
    t.errcode.toNat ≤ 5 := by
  by_cases hcode : t.errcode = s.errcode
  · rwa [hcode]
  · obtain ⟨_, _, hzero⟩ := he.error_writer (.inr hcode)
    simp [hzero]

theorem State.raise_errcode_le {s : State} (h : s.errcode.toNat ≤ 5) (cause : Cause) :
    (s.raise cause).errcode.toNat ≤ 5 := by
  rw [State.raise_errcode]
  split
  · exact h
  · exact cause.code_bounds.2

/-- Equal tables under equal parameters are equally canonical. -/
theorem State.tablesWf_of_eq {s t : State} (h : s.tablesWf) (hp : t.params = s.params) (hf : t.tf = s.tf)
    (hd : t.td = s.td) : t.tablesWf := by
  unfold State.tablesWf
  rwa [hp, hf, hd]

/-- Every effect that writes a table writes slots that exist, or clears both tables. -/
theorem Effect.keeps_tablesWf {s t : State} {i : Instr} (h : s.tablesWf) (he : Effect s i t) : t.tablesWf := by
  cases he with
  | clear => exact s.clearTables_tablesWf
  | encv _ hslots =>
    exact State.tablesWf_of_eq (State.advance_tablesWf h hslots _) (s.encodeStep_params _) (s.encodeStep_tf _)
      (s.encodeStep_td _)
  | @decv field source _ _ _ _ hslots =>
    exact State.tablesWf_of_eq (State.advance_tablesWf h hslots _) (s.decodeStep_params field source)
      (s.decodeStep_tf field source) (s.decodeStep_td field source)
  | wrtbl _ _ hslot => exact State.tablesWf_of_eq (State.memWrite_tablesWf h hslot _) rfl rfl rfl
  | _ => exact State.tablesWf_of_eq h (by simp) (by simp) (by simp)

theorem State.Inv.sixInvariants {s : State} (h : s.Inv) : s.SixInvariants := { h with }

theorem State.Inv.reject {s : State} (h : s.Inv) : s.reject.Inv := { h with }

theorem State.Inv.raise {s : State} (h : s.Inv) (cause : Cause) : (s.raise cause).Inv :=
  { h.sixInvariants.raise cause, h with errcode_le := State.raise_errcode_le h.errcode_le cause }

theorem State.Inv.effect {s t : State} {i : Instr} (h : s.Inv) (he : Effect s i t) : t.Inv := by
  obtain ⟨six, hcfg, hcode, htables⟩ := s.inv_iff.1 h
  exact t.inv_iff.2 ⟨six.effect he, he.keeps_cfgInRange hcfg, he.keeps_errcode_le hcode, he.keeps_tablesWf htables⟩

/-- Settles O12: each outcome of a step keeps the six invariants and those the model adds. -/
theorem stepKeepsInvariant : Obligations.StepKeepsInvariant :=
  fun _ _ hs h => step_keeps hs h hs.reject hs.raise hs.effect

/-! Progress: under the invariants no command faults -/

/-- Rule R76: a slot below the configured size exists. -/
theorem State.Inv.slotExists {s : State} (h : s.Inv) {tbl : Table} {idx : BitVec 23}
    (hidx : s.indexInSize tbl idx = true) : s.slotExists tbl idx.toNat = true := by
  have hsize : s.sizeLog2 tbl ≤ s.physLog2 tbl := by
    cases tbl
    · exact h.flog2_le
    · exact h.dlog2_le
  simp only [State.indexInSize, State.slotExists, decide_eq_true_eq] at hidx ⊢
  exact Nat.lt_of_lt_of_le hidx (Nat.pow_le_pow_right (by decide) hsize)

/-- A checked command answers next if its own rule does. -/
theorem checked_answers {i : Instr} {s : State} {run : Result} (h : ∃ t, run = .next t) :
    ∃ t, checked i s run = .next t := by
  rcases checked_cases (i := i) (s := s) (run := run) rfl with ⟨_, _, hr⟩ | ⟨_, _, hr⟩ | ⟨_, _, _, hr⟩ | ⟨_, _, _, hr⟩
  · exact ⟨_, hr⟩
  · exact ⟨_, hr⟩
  · exact ⟨_, hr⟩
  · rwa [hr]

/-- Rules R44, R76: the table accesses of ENCV, DECV, RDTBL and WRTBL are to slots that exist; no other command
can fault. -/
theorem exec_answers {s : State} (h : s.Inv) (i : Instr) : ∃ t, exec i s = .next t := by
  cases i with
  | nop | cfg | hargs | seed | defaults | clear | beginCall | endCall | rdreg | errclr =>
    exact checked_answers ⟨_, rfl⟩
  | encv o => exact checked_answers ⟨_, by rw [h.cursorsExist]; rfl⟩
  | decv =>
    refine checked_answers ?_
    split
    · exact ⟨_, rfl⟩
    · split
      · exact ⟨_, rfl⟩
      · split
        · exact ⟨_, rfl⟩
        · exact ⟨_, by rw [h.cursorsExist]; rfl⟩
  | rdtbl tbl idx =>
    refine checked_answers ?_
    split
    · next hidx => exact ⟨_, by rw [h.slotExists hidx]; rfl⟩
    · exact ⟨_, rfl⟩
  | wrtbl tbl idx o =>
    refine checked_answers ?_
    split
    · next hidx => exact ⟨_, by rw [h.slotExists hidx]; rfl⟩
    · exact ⟨_, rfl⟩

/-- Settles O8: no command presented, an illegal word, and every command answer next. -/
theorem stepNeverStops : Obligations.StepNeverStops := by
  intro s h
  rcases step_cases (s := s) rfl with ⟨_, ho⟩ | ⟨_, _, _, _, _, ho⟩ | ⟨_, _, i, _, _, ho⟩
  · exact ⟨_, ho⟩
  · exact ⟨_, ho⟩
  · rw [ho]; exact exec_answers h i

/-! Reset, the host, and the reachable states -/

/-- Rule R250: hardware reset establishes the invariants, for every implementation's parameters. -/
theorem State.resetWith_inv (params : Params) (draws : Nat) : (State.resetWith params draws).Inv :=
  (State.inv_iff _).2 ⟨State.resetWith_sixInvariants params draws,
    by simp [State.cfgInRange, State.resetWith], by simp [State.resetWith], State.resetWith_tablesWf params draws⟩

/-- Settles O10. -/
theorem resetMeetsInvariant : Obligations.ResetMeetsInvariant := State.resetWith_inv _ _

/-- Settles O13: the host moves bytes, responses and commands, of which the invariants say nothing; hardware reset
establishes them. -/
theorem hostActionsKeepInvariant : Obligations.HostActionsKeepInvariant := by
  intro s a h
  cases a with
  | hardwareReset => exact { State.resetWith_inv s.params s.draws with }
  | present | takeResponse | appendHdrIn | appendPayIn | drainHdrOut | drainPayOut => exact { h with }

theorem State.Reachable.inv {s : State} (h : s.Reachable) : s.Inv := by
  induction h with
  | reset params draws => exact State.resetWith_inv params draws
  | step _ hstep ih => exact stepKeepsInvariant _ _ ih hstep
  | host a _ ih => exact hostActionsKeepInvariant _ a ih

/-- Settles O15: the invariants hold at reset and are kept, and under them the step answers next. -/
theorem reachableStatesAreGood : Obligations.ReachableStatesAreGood :=
  fun s h => ⟨h.inv, stepNeverStops s h.inv⟩

end Sys2Proof.Machine

/-! SUPPORT. The streams (rules R42, R65, R267) and the upper slot halves (rule R28): O23 and O48. -/

namespace Sys2Proof.Machine

/-! The streams are first-in first-out -/

/-- What one step may do to the streams in `s`: append to the outputs in an ENC call, and take at most one header
byte and one word of payload bytes from the head of the inputs. -/
structure State.StreamsAdvance (s t : State) : Prop where
  hdrOut : ∃ h, t.hdrOut = s.hdrOut ++ h ∧ (h ≠ [] → s.mode = .enc)
  payOut : ∃ p, t.payOut = s.payOut ++ p ∧ (p ≠ [] → s.mode = .enc)
  hdrIn : ∃ n, n ≤ 1 ∧ t.hdrIn = s.hdrIn.drop n
  payIn : ∃ k, k ≤ widthBytes s.cfg.w ∧ t.payIn = s.payIn.drop k

theorem appends_nothing_of_eq {α : Type} {out out' : List α} {p : Prop} (h : out' = out) :
    ∃ l, out' = out ++ l ∧ (l ≠ [] → p) := ⟨[], by simp [h], fun hne => absurd rfl hne⟩

theorem drops_nothing_of_eq {α : Type} {input input' : List α} (bound : Nat) (h : input' = input) :
    ∃ n, n ≤ bound ∧ input' = input.drop n := ⟨0, Nat.zero_le _, by simp [h]⟩

/-- Untouched streams. -/
theorem State.StreamsAdvance.of_eq {s t : State} (ho : t.hdrOut = s.hdrOut) (po : t.payOut = s.payOut)
    (hi : t.hdrIn = s.hdrIn) (pi : t.payIn = s.payIn) : s.StreamsAdvance t :=
  ⟨appends_nothing_of_eq ho, appends_nothing_of_eq po, drops_nothing_of_eq _ hi, drops_nothing_of_eq _ pi⟩

/-- A guarded append: what it appends where the guard holds, nothing elsewhere. -/
theorem ite_append_appends {α : Type} {p c : Prop} [Decidable c] (out l : List α) (h : c → p) :
    ∃ l', (if c then out ++ l else out) = out ++ l' ∧ (l' ≠ [] → p) := by
  by_cases hc : c
  · exact ⟨l, by simp [hc], fun _ => h hc⟩
  · exact appends_nothing_of_eq (by simp [hc])

/-- ENCV and END append in an ENC call only, DECV takes from the head, and no other effect touches a stream. -/
theorem Effect.streamsAdvance {s t : State} {i : Instr} (he : Effect s i t) : s.StreamsAdvance t := by
  cases he with
  | encv =>
    refine ⟨?_, ?_, drops_nothing_of_eq _ (by simp), drops_nothing_of_eq _ (by simp)⟩
    · rw [State.encodeStep_hdrOut]; exact ite_append_appends _ _ And.right
    · rw [State.encodeStep_payOut]; exact ite_append_appends _ _ id
  | endCall =>
    refine ⟨?_, appends_nothing_of_eq (by simp), drops_nothing_of_eq _ (by simp), drops_nothing_of_eq _ (by simp)⟩
    rw [State.respond_hdrOut, State.closeCall_hdrOut, State.flushHeader_hdrOut]
    exact ite_append_appends _ _ And.right
  | @decv field source =>
    refine ⟨appends_nothing_of_eq (by simp), appends_nothing_of_eq (by simp), ?_,
      ⟨_, payLen_le _ _, s.decodeStep_payIn field source⟩⟩
    cases source with
    | none => exact drops_nothing_of_eq _ (by simp)
    | some b => exact ⟨1, Nat.le_refl 1, by simp⟩
  | _ => exact .of_eq (by simp) (by simp) (by simp) (by simp)

/-- Rule R65: among the effects only DECV takes input bytes. -/
theorem Effect.input_reader {s t : State} {i : Instr} (he : Effect s i t)
    (hne : t.hdrIn ≠ s.hdrIn ∨ t.payIn ≠ s.payIn) : i = .decv := by
  cases he with
  | decv => rfl
  | _ => simp at hne

/-- Settles O23: a wait, a rejection and an error entry touch no stream; an effect moves the streams on. -/
theorem streamsAreFifo : Obligations.StreamsAreFifo := by
  intro s t h
  have advance : s.StreamsAdvance t :=
    step_keeps (P := s.StreamsAdvance) (.of_eq rfl rfl rfl rfl) h (.of_eq rfl rfl rfl rfl)
      (fun _ => .of_eq rfl rfl rfl rfl) Effect.streamsAdvance
  refine ⟨advance.hdrOut, advance.payOut, advance.hdrIn, advance.payIn, fun hne => ?_⟩
  rcases step_outcomes h with rfl | rfl | ⟨cause, rfl⟩ | ⟨c, rest, i, hc, hd, he⟩
  · simp at hne
  · simp at hne
  · simp at hne
  · exact ⟨c, rest, hc, he.input_reader hne ▸ hd⟩

/-! The upper halves of the slots at W = 32 (rule R28) -/

/-- A prediction reads a slot modulo 2^32. -/
theorem toNat_mod_eq_of_lowHalf_eq {x y : Word} (h : x.extractLsb' 0 32 = y.extractLsb' 0 32) :
    x.toNat % 2 ^ 32 = y.toNat % 2 ^ 32 := by
  simpa [BitVec.extractLsb'_toNat] using congrArg BitVec.toNat h

/-- What ENCV computes depends on the tables through the two predictions only (rule R125). -/
theorem State.encodeValue_congr {s t : State} (hw : t.cfg.w = s.cfg.w) (hf : t.predF = s.predF)
    (hd : t.predD = s.predD) (v : Nat) : t.encodeValue v = s.encodeValue v := by
  unfold State.encodeValue
  rw [hw, hf, hd]

/-- Settles O48: both predictions are the same modulo 2^32. -/
theorem upperSlotHalvesDoNotMatter : Obligations.UpperSlotHalvesDoNotMatter := by
  intro s tf td v hw hf hd
  refine State.encodeValue_congr (s := s) (t := { s with tf := tf, td := td }) rfl ?_ ?_ v
  · simpa [State.predF, State.memRead, State.ram, State.cursor, hw] using toNat_mod_eq_of_lowHalf_eq (hf _)
  · have := toNat_mod_eq_of_lowHalf_eq (hd s.dfcmHash.toNat)
    simp only [State.predD, State.memRead, State.ram, State.cursor, hw, widthBits_w32]
    rw [this]

end Sys2Proof.Machine

/-! SUPPORT. What one step runs (rules R66, R67, R252): O5 and O6. -/

namespace Sys2Proof.Machine

/-- Settles O5: of the three outcomes of a step only the run command has a port whose oldest word decodes, and that
word decodes to one command. -/
theorem stepRunsDecodedCommand : Obligations.StepRunsDecodedCommand := by
  intro s c rest i hc hd
  rcases step_cases (s := s) rfl with ⟨hempty, _⟩ | ⟨c', _, e, hc', hillegal, _⟩ | ⟨c', _, i', hc', hd', hrun⟩
  · simp [hc] at hempty
  · obtain ⟨rfl, _⟩ := List.cons.inj (hc.symm.trans hc')
    simp [hd] at hillegal
  · obtain ⟨rfl, _⟩ := List.cons.inj (hc.symm.trans hc')
    obtain rfl := Except.ok.inj (hd.symm.trans hd')
    exact hrun

/-- Settles O6: the two outcomes of a step other than the wait need a word on the port. -/
theorem stepWithoutCommandChangesNothing : Obligations.StepWithoutCommandChangesNothing := by
  intro s hempty
  rcases step_cases (s := s) rfl with ⟨_, hwait⟩ | ⟨_, _, _, hc, _⟩ | ⟨_, _, _, hc, _⟩
  · exact hwait
  · simp [hempty] at hc
  · simp [hempty] at hc

end Sys2Proof.Machine

/-! SUPPORT. The command words of `30_encoding.md`, Part 1 (rules R80-R90): what the decoder and the encoder say of
each row of the opcode map, and the words that decode to nothing: O1, O2 and O3. -/

namespace Sys2Proof

/-! The fields of a word -/

@[simp] theorem Width.bit_ofBit (b : BitVec 1) : (Width.ofBit b).bit = b := by
  revert b; decide

@[simp] theorem Width.ofBit_bit (w : Width) : Width.ofBit w.bit = w := by cases w <;> rfl

@[simp] theorem Table.bit_ofBit (b : BitVec 1) : (Table.ofBit b).bit = b := by
  revert b; decide

@[simp] theorem Table.ofBit_bit (t : Table) : Table.ofBit t.bit = t := by cases t <;> rfl

/-- The K bit of BEGIN as a flag and back (rule R85). -/
theorem toNat_beq_one (b : BitVec 1) : (b == 1#1).toNat = b.toNat := by
  revert b; decide

/-- What a field of a word sum reads. -/
theorem extractLsb'_ofNat_eq {n lo len : Nat} {y : BitVec len} (h : n % 2 ^ 32 / 2 ^ lo % 2 ^ len = y.toNat) :
    (BitVec.ofNat 32 n).extractLsb' lo len = y :=
  extractLsb'_eq_of_toNat lo _ _ (by rw [BitVec.toNat_ofNat, h])

/-- What a reserved field of a word sum reads. -/
theorem extractLsb'_ofNat_eq_zero {n lo len : Nat} (h : n % 2 ^ 32 / 2 ^ lo % 2 ^ len = 0) :
    (BitVec.ofNat 32 n).extractLsb' lo len = 0 :=
  extractLsb'_ofNat_eq (h.trans (Nat.zero_mod _).symm)

/-- A field's value as the quotient and remainder that name it. -/
theorem toNat_field {n : Nat} (lo len : Nat) (x : BitVec n) :
    (x.extractLsb' lo len).toNat = x.toNat / 2 ^ lo % 2 ^ len := by
  rw [BitVec.extractLsb'_toNat, Nat.shiftRight_eq_div_pow]

/-- A field is zero when its value is. -/
theorem field_eq_zero_iff {n : Nat} (lo len : Nat) (x : BitVec n) :
    x.extractLsb' lo len = 0 ↔ x.toNat / 2 ^ lo % 2 ^ len = 0 := by
  rw [← BitVec.toNat_inj, toNat_field]; rfl

/-! The reserved bits of each format -/

theorem reservedZeroN_iff (cmd : CmdWord) : reservedZeroN cmd = true ↔ cmd.extractLsb' 8 24 = 0 := by
  simp [reservedZeroN]

theorem reservedZeroC_iff (cmd : CmdWord) : reservedZeroC cmd = true ↔
    cmd.extractLsb' 9 7 = 0 ∧ cmd.extractLsb' 21 3 = 0 ∧ cmd.extractLsb' 29 3 = 0 := by
  simp [reservedZeroC, and_assoc]

theorem reservedZeroB_iff (cmd : CmdWord) :
    reservedZeroB cmd = true ↔ cmd.extractLsb' 10 2 = 0 ∧ cmd.extractLsb' 13 19 = 0 := by
  simp [reservedZeroB]

theorem reservedZeroS_iff (cmd : CmdWord) : reservedZeroS cmd = true ↔ cmd.extractLsb' 12 20 = 0 := by
  simp [reservedZeroS]

theorem beginModeLegal_iff (mode : BitVec 2) : beginModeLegal mode = true ↔ mode ≠ 0 := by
  simp [beginModeLegal]

theorem selLegal_iff (sel : BitVec 4) : selLegal sel = true ↔ sel.toNat ≤ 10 := by
  simp [selLegal]

/-! What a word decodes to -/

/-- The reserved bits, the fields and the operand of a command stand in a word as its format table has them
(rules R82-R88). -/
def Instr.FieldsIn (cmd : CmdWord) (operand : Word) : Instr → Prop
  | .nop | .defaults | .clear | .decv | .endCall | .errclr => reservedZeroN cmd = true
  | .seed o | .encv o => reservedZeroN cmd = true ∧ o = operand
  | .cfg w flog2 dlog2 => reservedZeroC cmd = true ∧ w = .ofBit (cmd.extractLsb' 8 1) ∧
      flog2 = cmd.extractLsb' 16 5 ∧ dlog2 = cmd.extractLsb' 24 5
  | .hargs lf rf ld rd => lf = cmd.extractLsb' 8 6 ∧ rf = cmd.extractLsb' 14 6 ∧
      ld = cmd.extractLsb' 20 6 ∧ rd = cmd.extractLsb' 26 6
  | .beginCall mode k => beginModeLegal mode = true ∧ reservedZeroB cmd = true ∧
      mode = cmd.extractLsb' 8 2 ∧ k = (cmd.extractLsb' 12 1 == 1#1)
  | .rdreg sel => selLegal sel = true ∧ reservedZeroS cmd = true ∧ sel = cmd.extractLsb' 8 4
  | .rdtbl t idx => t = .ofBit (cmd.extractLsb' 8 1) ∧ idx = cmd.extractLsb' 9 23
  | .wrtbl t idx o => t = .ofBit (cmd.extractLsb' 8 1) ∧ idx = cmd.extractLsb' 9 23 ∧ o = operand

@[simp] theorem ifReservedZero_eq_ok_iff {zero : Bool} {i j : Instr} :
    ifReservedZero zero i = .ok j ↔ zero = true ∧ i = j := by
  cases zero <;> simp [ifReservedZero]

theorem decodeBegin_eq_ok_iff {cmd : CmdWord} {i : Instr} : decodeBegin cmd = .ok i ↔
    beginModeLegal (cmd.extractLsb' 8 2) = true ∧ reservedZeroB cmd = true ∧
      .beginCall (cmd.extractLsb' 8 2) (cmd.extractLsb' 12 1 == 1#1) = i := by
  simp only [decodeBegin]
  split
  · next h => simp only [ifReservedZero_eq_ok_iff, h, true_and]; rfl
  · next h => simp only [reduceCtorEq, h, false_and]

theorem decodeRdreg_eq_ok_iff {cmd : CmdWord} {i : Instr} : decodeRdreg cmd = .ok i ↔
    selLegal (cmd.extractLsb' 8 4) = true ∧ reservedZeroS cmd = true ∧ .rdreg (cmd.extractLsb' 8 4) = i := by
  simp only [decodeRdreg]
  split
  · next h => simp only [ifReservedZero_eq_ok_iff, h, true_and]
  · next h => simp only [reduceCtorEq, h, false_and]

/-- Rules R81-R90: a word decodes to the command whose opcode and fields stand in it. -/
theorem decode_eq_ok_iff {cmd : CmdWord} {operand : Word} {i : Instr} :
    decode ⟨cmd, operand⟩ = .ok i ↔ opcodeOf cmd = opcodeNumber i ∧ i.FieldsIn cmd operand := by
  constructor
  · intro h
    simp only [decode] at h
    split at h
    -- `h_1` is the arm of opcode 0x00, `h_15` that of the reserved opcodes; the arms left to the end test reserved
    -- bits alone.
    case h_15 => cases h
    case h_7 hop =>
      obtain ⟨hm, hz, rfl⟩ := decodeBegin_eq_ok_iff.1 h
      exact ⟨BitVec.eq_of_toNat_eq hop, hm, hz, rfl, rfl⟩
    case h_11 hop =>
      obtain ⟨hsel, hz, rfl⟩ := decodeRdreg_eq_ok_iff.1 h
      exact ⟨BitVec.eq_of_toNat_eq hop, hsel, hz, rfl⟩
    case h_3 hop => cases h; exact ⟨BitVec.eq_of_toNat_eq hop, rfl, rfl, rfl, rfl⟩
    case h_12 hop => cases h; exact ⟨BitVec.eq_of_toNat_eq hop, rfl, rfl⟩
    case h_13 hop => cases h; exact ⟨BitVec.eq_of_toNat_eq hop, rfl, rfl, rfl⟩
    all_goals
      next hop =>
        obtain ⟨hz, rfl⟩ := ifReservedZero_eq_ok_iff.1 h
        exact ⟨BitVec.eq_of_toNat_eq hop, by simp [Instr.FieldsIn, hz]⟩
  · rintro ⟨hop, hf⟩
    unfold decode
    cases i with
    | beginCall mode k =>
      obtain ⟨hm, hz, rfl, rfl⟩ := hf
      simpa [hop, opcodeNumber] using decodeBegin_eq_ok_iff.2 ⟨hm, hz, rfl⟩
    | rdreg sel =>
      obtain ⟨hsel, hz, rfl⟩ := hf
      simpa [hop, opcodeNumber] using decodeRdreg_eq_ok_iff.2 ⟨hsel, hz, rfl⟩
    | _ => simp_all [opcodeNumber, Instr.FieldsIn]

/-! Encoding -/

/-- Rule R89: the word of every command carries the command's opcode. -/
theorem opcodeOf_encodeWord (i : Instr) : opcodeOf (encodeWord i) = opcodeNumber i := by
  cases i with
  | nop => exact Laws.Opcode.nop
  | cfg w f d => exact Laws.Opcode.cfg w f d
  | hargs lf rf ld rd => exact Laws.Opcode.hargs lf rf ld rd
  | seed o => exact Laws.Opcode.seed o
  | defaults => exact Laws.Opcode.defaults
  | clear => exact Laws.Opcode.clear
  | beginCall mode k => exact Laws.Opcode.beginCall mode k
  | encv o => exact Laws.Opcode.encv o
  | decv => exact Laws.Opcode.decv
  | endCall => exact Laws.Opcode.endCall
  | rdreg sel => exact Laws.Opcode.rdreg sel
  | rdtbl t idx => exact Laws.Opcode.rdtbl t idx
  | wrtbl t idx o => exact Laws.Opcode.wrtbl t idx o
  | errclr => exact Laws.Opcode.errclr

/-- Rule R87: RDTBL and WRTBL have one format, whatever their opcode. -/
theorem fieldsT_encode (op : Nat) (hop : op < 2 ^ 8) (t : Table) (idx : BitVec 23) :
    let cmd := BitVec.ofNat 32 (op + t.bit.toNat * 2 ^ 8 + idx.toNat * 2 ^ 9)
    t = .ofBit (cmd.extractLsb' 8 1) ∧ idx = cmd.extractLsb' 9 23 := by
  have ht := t.bit.isLt
  have hidx := idx.isLt
  refine ⟨?_, (extractLsb'_ofNat_eq (by omega)).symm⟩
  rw [extractLsb'_ofNat_eq (y := t.bit) (by omega), Table.ofBit_bit]

/-- Rules R82-R88: the encoder puts the fields of a legal command where its format table has them. -/
theorem Instr.fieldsIn_encode {i : Instr} (h : i.wellFormed = true) :
    i.FieldsIn (encodeWord i) (encodeOperand i) := by
  cases i with
  | nop | defaults | clear | decv | endCall | errclr => rfl
  | seed o => exact ⟨(by decide : reservedZeroN 0x03 = true), rfl⟩
  | encv o => exact ⟨(by decide : reservedZeroN 0x07 = true), rfl⟩
  | cfg w f d =>
    have hw := w.bit.isLt
    have hf := f.isLt
    have hd := d.isLt
    refine ⟨(reservedZeroC_iff _).2 ⟨?_, ?_, ?_⟩, ?_, ?_, ?_⟩
    case refine_4 => rw [encodeWord, extractLsb'_ofNat_eq (y := w.bit) (by omega), Width.ofBit_bit]
    case refine_5 | refine_6 => exact (extractLsb'_ofNat_eq (by omega)).symm
    all_goals exact extractLsb'_ofNat_eq_zero (by omega)
  | hargs lf rf ld rd =>
    have hlf := lf.isLt
    have hrf := rf.isLt
    have hld := ld.isLt
    have hrd := rd.isLt
    refine ⟨?_, ?_, ?_, ?_⟩ <;> exact (extractLsb'_ofNat_eq (by omega)).symm
  | beginCall mode k =>
    revert mode k
    simp only [Instr.FieldsIn]
    decide
  | rdreg sel =>
    have hs := sel.isLt
    exact ⟨h, (reservedZeroS_iff _).2 (extractLsb'_ofNat_eq_zero (by omega)),
      (extractLsb'_ofNat_eq (by omega)).symm⟩
  | rdtbl t idx => exact fieldsT_encode 0x0B (by decide) t idx
  | wrtbl t idx o =>
    obtain ⟨ht, hidx⟩ := fieldsT_encode 0x0C (by decide) t idx
    exact ⟨ht, hidx, rfl⟩

/-- Settles O1: the word carries the opcode and the fields the decoder looks for. -/
theorem decodeReadsBackEveryEncoding : Obligations.DecodeReadsBackEveryEncoding :=
  fun i h => decode_eq_ok_iff.2 ⟨opcodeOf_encodeWord i, Instr.fieldsIn_encode h⟩

/-! The word of a decoded command -/

/-- Rule R90: a decoded command is legal. -/
theorem Instr.FieldsIn.wellFormed {cmd : CmdWord} {operand : Word} {i : Instr} (h : i.FieldsIn cmd operand) :
    i.wellFormed = true := by
  cases i with
  | beginCall mode k | rdreg sel => exact h.1
  | _ => rfl

/-- Rule R88: a command either carries the operand it was read with, or is read with every operand. -/
theorem Instr.FieldsIn.operand {cmd : CmdWord} {operand : Word} {i : Instr} (h : i.FieldsIn cmd operand) :
    encodeOperand i = operand ∨
      (opcodeNumber i ∉ [0x03#8, 0x07#8, 0x0C#8] ∧ ∀ o, i.FieldsIn cmd o) := by
  cases i with
  | seed o | encv o => exact .inl h.2
  | wrtbl t idx o => exact .inl h.2.2
  | _ => exact .inr ⟨by simp [opcodeNumber], fun _ => h⟩

/-- A word is a sum of fields if its value is. -/
theorem ofNat_eq_of_toNat {cmd : CmdWord} {n : Nat} (h : n = cmd.toNat) : BitVec.ofNat 32 n = cmd := by
  rw [h, BitVec.ofNat_toNat, BitVec.setWidth_eq]

/-- A word whose reserved bits are 0 is its opcode (rule R82). -/
theorem eq_of_reservedZeroN {cmd : CmdWord} (hz : reservedZeroN cmd = true) :
    BitVec.ofNat 32 (opcodeOf cmd).toNat = cmd := by
  rw [reservedZeroN_iff, field_eq_zero_iff] at hz
  refine ofNat_eq_of_toNat ?_
  rw [opcodeOf, toNat_field]
  omega

/-- The opcode is the value of a word modulo 256 (rule R81). -/
theorem toNat_of_opcodeOf {cmd : CmdWord} {op : BitVec 8} (h : opcodeOf cmd = op) : cmd.toNat % 2 ^ 8 = op.toNat := by
  rw [← h, opcodeOf, toNat_field, Nat.pow_zero, Nat.div_one]

/-- Rule R87: every bit of a RDTBL or WRTBL word is the opcode's or a field's. -/
theorem fieldsT_eq {cmd : CmdWord} {op : Nat} (hop : cmd.toNat % 2 ^ 8 = op) :
    BitVec.ofNat 32 (op + (Table.ofBit (cmd.extractLsb' 8 1)).bit.toNat * 2 ^ 8
      + (cmd.extractLsb' 9 23).toNat * 2 ^ 9) = cmd := by
  refine ofNat_eq_of_toNat ?_
  rw [Table.bit_ofBit, toNat_field, toNat_field]
  omega

/-- Rules R82-R87: every bit of a word is the opcode's, a field's, or a reserved 0. -/
theorem Instr.FieldsIn.encodeWord_eq {cmd : CmdWord} {operand : Word} {i : Instr} (h : i.FieldsIn cmd operand)
    (hop : opcodeOf cmd = opcodeNumber i) : encodeWord i = cmd := by
  have hlt := cmd.isLt
  cases i with
  | nop | defaults | clear | decv | endCall | errclr => rw [← eq_of_reservedZeroN h, hop]; rfl
  | seed o | encv o => rw [← eq_of_reservedZeroN h.1, hop]; rfl
  | cfg w f d =>
    have hopcode : cmd.toNat % 2 ^ 8 = 0x01 := toNat_of_opcodeOf hop
    obtain ⟨hz, rfl, rfl, rfl⟩ := h
    simp only [reservedZeroC_iff, field_eq_zero_iff] at hz
    refine ofNat_eq_of_toNat ?_
    simp only [Width.bit_ofBit, toNat_field]
    omega
  | hargs lf rf ld rd =>
    have hopcode : cmd.toNat % 2 ^ 8 = 0x02 := toNat_of_opcodeOf hop
    obtain ⟨rfl, rfl, rfl, rfl⟩ := h
    refine ofNat_eq_of_toNat ?_
    simp only [toNat_field]
    omega
  | beginCall mode k =>
    have hopcode : cmd.toNat % 2 ^ 8 = 0x06 := toNat_of_opcodeOf hop
    obtain ⟨_, hz, rfl, rfl⟩ := h
    simp only [reservedZeroB_iff, field_eq_zero_iff] at hz
    refine ofNat_eq_of_toNat ?_
    simp only [toNat_beq_one, toNat_field]
    omega
  | rdreg sel =>
    have hopcode : cmd.toNat % 2 ^ 8 = 0x0A := toNat_of_opcodeOf hop
    obtain ⟨_, hz, rfl⟩ := h
    simp only [reservedZeroS_iff, field_eq_zero_iff] at hz
    refine ofNat_eq_of_toNat ?_
    simp only [toNat_field]
    omega
  | rdtbl t idx =>
    obtain ⟨rfl, rfl⟩ := h
    exact fieldsT_eq (toNat_of_opcodeOf hop)
  | wrtbl t idx o =>
    obtain ⟨rfl, rfl, rfl⟩ := h
    exact fieldsT_eq (toNat_of_opcodeOf hop)

/-- Settles O2: the fields the decoder read are those the encoder writes. -/
theorem decodedWordIsTheEncoding : Obligations.DecodedWordIsTheEncoding := by
  intro c i h
  obtain ⟨hop, hf⟩ := decode_eq_ok_iff.1 h
  refine ⟨hf.wellFormed, hf.encodeWord_eq hop, hf.operand.imp_right ?_⟩
  rintro ⟨hnot, hany⟩
  exact ⟨hop ▸ hnot, fun o => decode_eq_ok_iff.2 ⟨hop, hany o⟩⟩

end Sys2Proof

namespace Sys2Proof.Machine

/-! Illegal words (rule R90) -/

/-- Rule R90, format N: a word is legal if its reserved bits are 0. -/
theorem not_illegalWord_iff_formatN {cmd : CmdWord}
    (hop : (opcodeOf cmd).toNat ∈ [0x00, 0x03, 0x04, 0x05, 0x07, 0x08, 0x09, 0x0D]) :
    ¬ IllegalWord cmd ↔ reservedZeroN cmd = true := by
  rw [reservedZeroN_iff]
  simp only [opcodeOf, List.mem_cons, List.not_mem_nil, or_false] at hop
  rcases hop with hop | hop | hop | hop | hop | hop | hop | hop <;> simp [IllegalWord, hop]

/-- Rule R90, CFG: a word is legal if its reserved bits are 0. -/
theorem not_illegalWord_iff_formatC {cmd : CmdWord} (hop : (opcodeOf cmd).toNat = 0x01) :
    ¬ IllegalWord cmd ↔ reservedZeroC cmd = true := by
  rw [opcodeOf] at hop
  simp [IllegalWord, hop, reservedZeroC_iff]

/-- Rule R90, BEGIN: a word is legal if MODE is not 00 and its reserved bits are 0. -/
theorem not_illegalWord_iff_formatB {cmd : CmdWord} (hop : (opcodeOf cmd).toNat = 0x06) :
    ¬ IllegalWord cmd ↔ beginModeLegal (cmd.extractLsb' 8 2) = true ∧ reservedZeroB cmd = true := by
  rw [opcodeOf] at hop
  simp [IllegalWord, hop, reservedZeroB_iff, beginModeLegal_iff]

/-- Rule R90, RDREG: a word is legal if SEL names a register and its reserved bits are 0. -/
theorem not_illegalWord_iff_formatS {cmd : CmdWord} (hop : (opcodeOf cmd).toNat = 0x0A) :
    ¬ IllegalWord cmd ↔ selLegal (cmd.extractLsb' 8 4) = true ∧ reservedZeroS cmd = true := by
  rw [opcodeOf] at hop
  rw [selLegal_iff, reservedZeroS_iff, ← Nat.lt_succ_iff]
  simp only [IllegalWord, hop]
  simp

/-- Rule R90: HARGS, RDTBL and WRTBL have no illegal word. -/
theorem not_illegalWord_of_noReservedBit {cmd : CmdWord} (hop : (opcodeOf cmd).toNat ∈ [0x02, 0x0B, 0x0C]) :
    ¬ IllegalWord cmd := by
  simp only [opcodeOf, List.mem_cons, List.not_mem_nil, or_false] at hop
  rcases hop with hop | hop | hop <;> simp [IllegalWord, hop]

/-- Rule R90: an opcode above 0x0D is reserved. -/
theorem illegalWord_of_reservedOpcode {cmd : CmdWord} (hop : 0x0E ≤ (opcodeOf cmd).toNat) : IllegalWord cmd :=
  .inl hop

/-- Rule R90: exactly the legal words decode, arm by arm of the opcode map. -/
theorem exists_decode_ok_iff (cmd : CmdWord) (operand : Word) :
    (∃ i, decode ⟨cmd, operand⟩ = .ok i) ↔ ¬ IllegalWord cmd := by
  simp only [decode]
  split
  -- `h_1` is the arm of opcode 0x00, `h_15` that of the reserved opcodes; the arms left to the end have format N.
  case h_2 hop => simp [not_illegalWord_iff_formatC hop]
  case h_7 hop => simp [decodeBegin_eq_ok_iff, not_illegalWord_iff_formatB hop]
  case h_11 hop => simp [decodeRdreg_eq_ok_iff, not_illegalWord_iff_formatS hop]
  case h_3 hop | h_12 hop | h_13 hop => simp [not_illegalWord_of_noReservedBit (cmd := cmd) (by simp [hop])]
  case h_15 =>
    have hlarge : 0x0E ≤ (opcodeOf cmd).toNat := by
      simp only [imp_false] at *
      omega
    simp [illegalWord_of_reservedOpcode hlarge]
  all_goals
    next hop => simp [not_illegalWord_iff_formatN (cmd := cmd) (by simp [hop])]

/-- Rules R90, R221: an illegal word decodes to nothing. -/
theorem decode_eq_error_of_illegalWord {c : Command} (h : IllegalWord c.cmd) : ∃ e, decode c = .error e := by
  cases hd : decode c with
  | error e => exact ⟨e, rfl⟩
  | ok i => exact absurd h ((exists_decode_ok_iff c.cmd c.operand).1 ⟨i, hd⟩)

/-- A step on a word that decodes to nothing. -/
theorem step_of_decode_error {s : State} {c : Command} {rest : List Command} {e : DecodeError}
    (hc : s.cmds = c :: rest) (hd : decode c = .error e) : step s = .next (s.illegalWord c.cmd) := by
  simp [step, State.nextCommand, hc, hd]

/-- Rules R230, R232: while halted an error entry is a rejection, for the first error's code is kept. -/
theorem State.raise_of_halted {s : State} (h : s.errv = true) (cause : Cause) : s.raise cause = s.reject := by
  rw [State.raise_eq, State.reject_eq, if_pos h, ← h]

/-- Rules R227, R234: on a halted engine an illegal word, whatever its opcode, is rejected. -/
theorem State.illegalWord_of_halted {s : State} (h : s.errv = true) (cmd : CmdWord) :
    s.illegalWord cmd = s.reject := by
  rcases s.illegalWord_cases cmd with ⟨_, hr⟩ | hr
  · exact hr
  · rw [hr, State.raise_of_halted h]

/-- Rule R221: on an engine that is not halted an illegal word raises ILLEGAL. -/
theorem State.illegalWord_of_running {s : State} (h : s.errv = false) (cmd : CmdWord) :
    s.illegalWord cmd = s.raise .illegal := by
  simp [State.illegalWord, h]

/-- Settles O3: rule R90's list is what the decoder refuses, and a refused word takes the one arm of the step. -/
theorem illegalWordsRaiseIllegal : Obligations.IllegalWordsRaiseIllegal := by
  refine ⟨fun c => exists_decode_ok_iff c.cmd c.operand, fun s c rest hc hillegal => ?_⟩
  obtain ⟨e, hd⟩ := decode_eq_error_of_illegalWord hillegal
  rw [step_of_decode_error hc hd]
  refine ⟨fun hrun => ?_, fun hhalt => ?_⟩
  · rw [State.illegalWord_of_running hrun, State.raise_eq, hc, hrun]
    rfl
  · rw [State.illegalWord_of_halted hhalt, State.reject_eq, hc]
    rfl

end Sys2Proof.Machine

/-! SUPPORT. What a step does with the two ports (rules R80, R156, R252): O7. -/

namespace Sys2Proof.Machine

/-- Rule R156: an accepted DECV whose bytes are missing waits. -/
theorem execDecv_of_inputMissing {s : State} (hrun : s.errv = false) (hm : s.mode = .dec) (hin : s.inputMissing) :
    execDecv s = .next s := by
  unfold execDecv
  rw [checked_run _ (.inl hrun) rfl (by simp [acceptedIn, hm])]
  unfold State.inputMissing at hin
  cases hsrc : s.headerSource with
  | none => rfl
  | some src =>
    obtain ⟨field, source⟩ := src
    simp only [hsrc] at hin ⊢
    obtain ⟨hgood, hshort⟩ := hin
    simp [hgood, hshort]

/-- Rules R66, R156: a waiting engine does not change (log entries 1 and 2). -/
theorem State.Waiting.step_eq {s : State} (h : s.Waiting) : step s = .next s := by
  rcases h with hempty | ⟨c, rest, hc, hd, hrun, hm, hin⟩
  · exact stepWithoutCommandChangesNothing s hempty
  · rw [stepRunsDecodedCommand s c rest .decv hc hd]
    exact execDecv_of_inputMissing hrun hm hin

/-- The oldest command is taken and answered with one response, whose data is 0 if it failed (rule R80). -/
def State.Answered (s t : State) : Prop :=
  ∃ c r, s.cmds = c :: t.cmds ∧ t.resps = s.resps ++ [r] ∧ (r.ok = false → r.data = 0)

theorem State.answered_of_failure {s t : State} {c : Command} {rest : List Command} (hc : s.cmds = c :: rest)
    (hcmds : t.cmds = s.cmds.tail) (hresps : t.resps = s.resps ++ [⟨false, 0⟩]) : s.Answered t :=
  ⟨c, _, by rw [hcmds, hc]; rfl, hresps, fun _ => rfl⟩

theorem Effect.answered {s t : State} {i : Instr} {c : Command} {rest : List Command} (he : Effect s i t)
    (hc : s.cmds = c :: rest) : s.Answered t := by
  obtain ⟨hcmds, data, hresps⟩ := he.resps
  exact ⟨c, _, by rw [hcmds, hc]; rfl, hresps, by simp⟩

/-- Rules R80, R252: a step that is not a wait answers the oldest command. -/
theorem step_answered {s t : State} (h : step s = .next t) (hw : ¬ s.Waiting) : s.Answered t := by
  rcases step_cases h with ⟨hempty, _⟩ | ⟨c, rest, _, hc, _, ht⟩ | ⟨c, rest, i, hc, hd, hexec⟩
  · exact absurd (.inl hempty) hw
  · obtain rfl := Host.Outcome.next.inj ht
    rcases s.illegalWord_cases c.cmd with ⟨_, hr⟩ | hr <;> exact hr ▸ State.answered_of_failure hc rfl rfl
  · rcases exec_cases hexec.symm with ⟨_, _, rfl⟩ | ⟨_, _, rfl⟩ | ⟨rfl, hrun, hm, hin, _⟩ | ⟨_, he⟩
    · exact State.answered_of_failure hc rfl rfl
    · exact State.answered_of_failure hc rfl rfl
    · exact absurd (.inr ⟨c, rest, hc, hd, hrun, hm, hin⟩) hw
    · exact he.answered hc

/-- Settles O7: a waiting engine's step is the wait, and every other step answers. -/
theorem eachCommandYieldsOneResponse : Obligations.EachCommandYieldsOneResponse := by
  intro s t h
  by_cases hw : s.Waiting
  · exact .inl ⟨hw, (Host.Outcome.next.inj (hw.step_eq.symm.trans h)).symm⟩
  · exact .inr ⟨hw, step_answered h hw⟩

end Sys2Proof.Machine

/-! SUPPORT. The codes of the leading-zero-byte counts (rules R95, R96, R120, R121): O41. -/

namespace Sys2Proof.Machine

/-- Rule R95: at W = 64 a count above 3 is coded one lower. -/
theorem lzCode_w64 (lz : Nat) : lzCode .w64 lz = if lz ≤ 3 then lz else lz - 1 := by
  simp only [lzCode]
  split_ifs <;> omega

@[simp] theorem lzCode_w32 (lz : Nat) : lzCode .w32 lz = lz := rfl

/-- Rule R96: at W = 64 a code above 3 stands for one more. -/
theorem lzDec_w64 (c : Nat) : lzDec .w64 c = if c ≤ 3 then c else c + 1 := by
  simp only [lzDec]
  split_ifs <;> omega

@[simp] theorem lzDec_w32 (c : Nat) : lzDec .w32 c = c := rfl

/-- Settles O41: at W = 32 both tables are the identity; at W = 64 only the count 4 shares its code, with 3. -/
theorem codeExpandsBack : Obligations.CodeExpandsBack := by
  intro w lz hlz
  cases w with
  | w32 => simpa using hlz
  | w64 =>
    rw [widthBytes_w64] at hlz
    simp only [lzDec_w64, lzCode_w64, reduceCtorEq, false_or, true_and, if_true]
    split_ifs <;> omega

end Sys2Proof.Machine

/-! SUPPORT. The datapath of `40_predictor.md`: the hash, the leading-zero-byte count, the payload bytes, the selection,
EncodeValue and DecodeValue, and an encoder and a decoder in step: O39, O40, O42 to O47 and O49. -/

namespace Sys2Proof.Machine

/-! The hash (rule R114) -/

/-- Settles O39: the mask drops every bit of `h * 2^L` when `L ≥ S`, and the quotient of an `x` with no bit at or
above `R` is 0. -/
theorem hashStaysInTable : Obligations.HashStaysInTable := by
  intro h x l r size
  refine ⟨tableHash_eq h x l r size, tableHash_lt h x l r size, ?_, fun hle => ?_, fun hlt => ?_⟩
  · simp [tableHash, Nat.mod_one]
  · have hleft : h * 2 ^ l % 2 ^ size = 0 := Nat.mod_eq_zero_of_dvd (Dvd.dvd.mul_left (pow_dvd_pow 2 hle) h)
    rw [tableHash_eq, Nat.xor_mod_two_pow, hleft, Nat.zero_xor]
  · rw [tableHash_eq, Nat.div_eq_of_lt hlt, Nat.xor_zero]

/-! The leading-zero-byte count (rule R119) -/

theorem lzbcUpTo_le (bits r n : Nat) : lzbcUpTo bits r n ≤ n := by
  induction n with
  | zero => exact Nat.le_refl 0
  | succ n ih =>
    unfold lzbcUpTo
    split <;> omega

theorem lt_two_pow_sub_lzbcUpTo {bits r : Nat} (hr : r < 2 ^ bits) (n : Nat) :
    r < 2 ^ (bits - 8 * lzbcUpTo bits r n) := by
  induction n with
  | zero => exact hr
  | succ n ih =>
    unfold lzbcUpTo
    split
    · assumption
    · exact ih

theorem le_lzbcUpTo {bits r n k : Nat} (hk : k ≤ n) (hfit : r < 2 ^ (bits - 8 * k)) : k ≤ lzbcUpTo bits r n := by
  induction n with
  | zero => exact hk
  | succ n ih =>
    unfold lzbcUpTo
    split
    · exact hk
    · next hno =>
      have hne : k ≠ n + 1 := by rintro rfl; exact hno hfit
      exact ih (by omega)

theorem lzbc_le (w : Width) (r : Nat) : lzbc w r ≤ widthBytes w := lzbcUpTo_le _ _ _

theorem lt_two_pow_sub_lzbc {w : Width} {r : Nat} (hr : r < 2 ^ widthBits w) :
    r < 2 ^ (widthBits w - 8 * lzbc w r) := lt_two_pow_sub_lzbcUpTo hr _

theorem le_lzbc {w : Width} {r k : Nat} (hk : k ≤ widthBytes w) (hfit : r < 2 ^ (widthBits w - 8 * k)) :
    k ≤ lzbc w r := le_lzbcUpTo hk hfit

/-- Settles O40: the count fits, and every `k` that fits is at most the count. -/
theorem lzbcIsTheLargest : Obligations.LzbcIsTheLargest :=
  fun w r hr => ⟨lzbc_le w r, lt_two_pow_sub_lzbc hr, fun _ => le_lzbc⟩

/-- A smaller residual has at least as many leading zero bytes. -/
theorem lzbc_le_lzbc {w : Width} {r r' : Nat} (hle : r ≤ r') (hr' : r' < 2 ^ widthBits w) : lzbc w r' ≤ lzbc w r :=
  le_lzbc (lzbc_le w r') (Nat.lt_of_le_of_lt hle (lt_two_pow_sub_lzbc hr'))

/-! The payload length (rules R120-R122) -/

/-- Rules R99, R122: the code of a count costs the payload nothing, but for the count 4 at W = 64, where it costs one
byte. -/
theorem payLen_lzCode {w : Width} {lz : Nat} (hlz : lz ≤ widthBytes w) :
    payLen w (lzCode w lz) = if w = .w64 ∧ lz = 4 then 5 else widthBytes w - lz := by
  obtain ⟨_, _, hdec⟩ := codeExpandsBack w lz hlz
  rw [payLen, hdec]
  split
  · next hfour => rw [hfour.1, widthBytes_w64]
  · rfl

theorem lzDec_lzCode_le {w : Width} {lz : Nat} (hlz : lz ≤ widthBytes w) : lzDec w (lzCode w lz) ≤ lz := by
  obtain ⟨_, _, hdec⟩ := codeExpandsBack w lz hlz
  rw [hdec]
  split <;> omega

/-- Rule R122: a code that promises no more zero bytes than there are leaves room for the residual. -/
theorem lt_two_pow_payLen_lzCode {w : Width} {r : Nat} (hr : r < 2 ^ widthBits w) :
    r < 2 ^ (8 * payLen w (lzCode w (lzbc w r))) := by
  have hle := lzDec_lzCode_le (lzbc_le w r)
  refine Nat.lt_of_lt_of_le (lt_two_pow_sub_lzbc hr) (Nat.pow_le_pow_right (by decide) ?_)
  rw [widthBits_eq, payLen]
  omega

/-- Settles O42: the code never promises more zero bytes than the residual has. -/
theorem residualFitsItsPayload : Obligations.ResidualFitsItsPayload :=
  fun w r hr => ⟨fun c => ⟨rfl, payLen_le w c⟩, lzDec_lzCode_le (lzbc_le w r), lt_two_pow_payLen_lzCode hr⟩

/-! The payload bytes (rules R123, R124) -/

@[simp] theorem serialize_length (r k : Nat) : (serialize r k).length = k := by
  induction k with
  | zero => rfl
  | succ k ih => simp [serialize, ih]

/-- Rule R123: byte `j` of `k` has `k - 1 - j` bytes below it. -/
theorem serialize_getElem? {r k j : Nat} (hj : j < k) :
    (serialize r k)[j]? = some (BitVec.ofNat 8 (r / 2 ^ (8 * (k - 1 - j)))) := by
  induction k generalizing j with
  | zero => omega
  | succ k ih =>
    cases j with
    | zero => simp [serialize, Nat.shiftRight_eq_div_pow]
    | succ j =>
      have hbelow : k + 1 - 1 - (j + 1) = k - 1 - j := by omega
      rw [serialize, List.getElem?_cons_succ, ih (by omega), hbelow]

/-- What has been read so far is worth 256 more with every byte that follows. -/
theorem foldl_bytes_eq (bytes : List Byte) (acc : Nat) :
    bytes.foldl (fun acc b => acc * 256 + b.toNat) acc = acc * 2 ^ (8 * bytes.length) + deserialize bytes := by
  induction bytes generalizing acc with
  | nil => simp [deserialize]
  | cons b rest ih =>
    have hpow : 2 ^ (8 * (rest.length + 1)) = 256 * 2 ^ (8 * rest.length) := by
      rw [Nat.mul_succ, pow_add, mul_comm]
      rfl
    rw [deserialize, List.foldl_cons, List.foldl_cons, ih, ih (0 * 256 + b.toNat), List.length_cons, hpow]
    ring

/-- Rule R124: the first byte is the most significant one. -/
theorem deserialize_cons (b : Byte) (rest : List Byte) :
    deserialize (b :: rest) = b.toNat * 2 ^ (8 * rest.length) + deserialize rest := by
  rw [deserialize, List.foldl_cons, foldl_bytes_eq, Nat.zero_mul, Nat.zero_add]

/-- Rules R123, R124: `k` bytes hold the low `8k` bits. -/
theorem deserialize_serialize (r k : Nat) : deserialize (serialize r k) = r % 2 ^ (8 * k) := by
  induction k with
  | zero => simp [serialize, deserialize, Nat.mod_one]
  | succ k ih =>
    rw [serialize, deserialize_cons, ih, serialize_length, BitVec.toNat_ofNat, Nat.shiftRight_eq_div_pow, Nat.mul_succ,
      pow_add, Nat.mod_mul]
    ring

theorem deserialize_serialize_of_lt {r k : Nat} (hr : r < 2 ^ (8 * k)) : deserialize (serialize r k) = r := by
  rw [deserialize_serialize, Nat.mod_eq_of_lt hr]

/-- Settles O43: the bytes of `serialize` hold the low `8k` bits of `r`, which are all of them. -/
theorem deserializeUndoesSerialize : Obligations.DeserializeUndoesSerialize :=
  ⟨fun r k => ⟨serialize_length r k, fun _ => serialize_getElem?, deserialize_serialize_of_lt⟩, rfl, deserialize_cons⟩

/-! The selection (rules R117, R118, R128) -/

theorem selectPredictor_eq_dfcm_iff (rF rD : Nat) : selectPredictor rF rD = .dfcm ↔ rD < rF := by
  simp [selectPredictor]

theorem selectResidual_eq_min (rF rD : Nat) : selectResidual rF rD = min rF rD := by
  unfold selectResidual selectPredictor
  split_ifs with hlt
  · exact (Nat.min_eq_right (Nat.le_of_lt hlt)).symm
  · exact (Nat.min_eq_left (Nat.le_of_not_lt hlt)).symm

/-- Settles O44: the count falls as the residual grows, so that the smaller residual has the larger count. -/
theorem selectionTakesTheSmallerResidual : Obligations.SelectionTakesTheSmallerResidual := by
  intro w rF rD hF hD
  refine ⟨selectPredictor_eq_dfcm_iff rF rD, selectResidual_eq_min rF rD, ?_⟩
  rw [selectResidual_eq_min]
  rcases Nat.le_total rF rD with hle | hle
  · rw [Nat.min_eq_left hle, Nat.max_eq_left (lzbc_le_lzbc hle hD)]
  · rw [Nat.min_eq_right hle, Nat.max_eq_right (lzbc_le_lzbc hle hF)]

/-! The header field (rule R94) -/

theorem headerField_toNat (t : Table) {c : Nat} (hc : c < 8) :
    (headerField t c).toNat = 8 * (if t = .dfcm then 1 else 0) + c := by
  cases t <;> interval_cases c <;> rfl

/-- Rule R94: the type bit is the high bit of the field. -/
theorem fieldType_eq (field : BitVec 4) : fieldType field = if 8 ≤ field.toNat then .dfcm else .fcm := by
  revert field
  decide

/-! EncodeValue (rule R125) -/

/-- Rule R111 with one reduction. -/
theorem State.predD_eq (s : State) :
    s.predD = ((s.td.read s.dfcmHash.toNat).toNat + s.prior.toNat) % 2 ^ widthBits s.cfg.w :=
  Nat.mod_add_mod _ _ _

/-- The predictor EncodeValue selects for the value `v` (rule R117). -/
def State.selected (s : State) (v : Nat) : Table := selectPredictor (xorResidual v s.predF) (xorResidual v s.predD)

/-- The residual EncodeValue stores for the value `v`: against the prediction it selects (rules R112, R118). -/
def State.residual (s : State) (v : Nat) : Nat := xorResidual v (s.pred (s.selected v))

/-- The code EncodeValue stores for the value `v` (rules R119, R120). -/
def State.residualCode (s : State) (v : Nat) : Nat := lzCode s.cfg.w (lzbc s.cfg.w (s.residual v))

theorem State.selected_eq_dfcm_iff (s : State) (v : Nat) :
    s.selected v = .dfcm ↔ xorResidual v s.predD < xorResidual v s.predF := selectPredictor_eq_dfcm_iff _ _

theorem State.selectResidual_eq_residual (s : State) (v : Nat) :
    selectResidual (xorResidual v s.predF) (xorResidual v s.predD) = s.residual v := by
  unfold selectResidual State.residual State.selected
  cases selectPredictor (xorResidual v s.predF) (xorResidual v s.predD) <;> rfl

theorem State.residual_eq_min (s : State) (v : Nat) :
    s.residual v = min (xorResidual v s.predF) (xorResidual v s.predD) := by
  rw [← s.selectResidual_eq_residual, selectResidual_eq_min]

theorem State.residual_lt (s : State) {v : Nat} (hv : v < 2 ^ widthBits s.cfg.w) :
    s.residual v < 2 ^ widthBits s.cfg.w := xorResidual_lt hv (s.pred_lt _)

theorem State.encodeValue_field (s : State) (v : Nat) :
    (s.encodeValue v).field = headerField (s.selected v) (s.residualCode v) := by
  rw [State.residualCode, ← s.selectResidual_eq_residual]
  rfl

@[simp] theorem State.encodeValue_k (s : State) (v : Nat) :
    (s.encodeValue v).k = payLen s.cfg.w (s.residualCode v) := by
  rw [State.residualCode, ← s.selectResidual_eq_residual]
  rfl

@[simp] theorem State.encodeValue_bytes (s : State) (v : Nat) :
    (s.encodeValue v).bytes = serialize (s.residual v) (s.encodeValue v).k := by
  rw [← s.selectResidual_eq_residual]
  rfl

theorem State.residualCode_le (s : State) (v : Nat) :
    s.residualCode v ≤ if s.cfg.w = .w64 then 7 else 4 := by
  obtain ⟨_, hle, _⟩ := codeExpandsBack s.cfg.w _ (lzbc_le s.cfg.w (s.residual v))
  exact hle

theorem State.residualCode_lt (s : State) (v : Nat) : s.residualCode v < 8 := by
  have := s.residualCode_le v
  split at this <;> omega

@[simp] theorem State.fieldCode_encodeValue (s : State) (v : Nat) :
    fieldCode (s.encodeValue v).field = s.residualCode v := by
  rw [s.encodeValue_field, fieldCode_headerField _ (s.residualCode_lt v)]

theorem State.encodeValue_field_mod (s : State) (v : Nat) : (s.encodeValue v).field.toNat % 8 = s.residualCode v := by
  rw [← fieldCode_eq, s.fieldCode_encodeValue]

theorem State.encodeValue_field_div (s : State) (v : Nat) :
    (s.encodeValue v).field.toNat / 8 = if xorResidual v s.predD < xorResidual v s.predF then 1 else 0 := by
  have hcode := s.residualCode_lt v
  rw [s.encodeValue_field, headerField_toNat _ hcode]
  simp only [s.selected_eq_dfcm_iff]
  omega

theorem State.residual_lt_payload (s : State) {v : Nat} (hv : v < 2 ^ widthBits s.cfg.w) :
    s.residual v < 2 ^ (8 * (s.encodeValue v).k) := by
  rw [s.encodeValue_k]
  exact lt_two_pow_payLen_lzCode (s.residual_lt hv)

/-- Rules R99, R122: the payload length in terms of the count. -/
theorem State.encodeValue_k_eq (s : State) (v : Nat) :
    (s.encodeValue v).k = if s.cfg.w = .w64 ∧ lzbc s.cfg.w (s.residual v) = 4 then 5
      else widthBytes s.cfg.w - lzbc s.cfg.w (s.residual v) := by
  rw [s.encodeValue_k]
  exact payLen_lzCode (lzbc_le _ _)

/-- Rule R99: at W = 64 no code stands for four payload bytes. -/
theorem State.encodeValue_k_ne_four (s : State) (v : Nat) (hw : s.cfg.w = .w64) : (s.encodeValue v).k ≠ 4 := by
  rw [s.encodeValue_k_eq, hw, widthBytes_w64]
  simp only [true_and]
  split <;> omega

/-- Rule R100: no shorter payload holds the residual, but for four bytes at W = 64. -/
theorem State.encodeValue_k_le (s : State) {v k : Nat} (hfit : s.residual v < 2 ^ (8 * k)) :
    (s.encodeValue v).k ≤ k ∨ (s.cfg.w = .w64 ∧ k = 4 ∧ (s.encodeValue v).k = 5) := by
  have hcount : widthBytes s.cfg.w - k ≤ lzbc s.cfg.w (s.residual v) := by
    by_cases hk : k ≤ widthBytes s.cfg.w
    · refine le_lzbc (Nat.sub_le _ _) ?_
      have hbits : widthBits s.cfg.w - 8 * (widthBytes s.cfg.w - k) = 8 * k := by rw [widthBits_eq]; omega
      rwa [hbits]
    · omega
  rw [s.encodeValue_k_eq]
  split
  · next hfour =>
    obtain ⟨hw, hlz⟩ := hfour
    rw [hw, widthBytes_w64] at hcount
    rw [hw] at hlz
    simp only [hw, true_and, and_true]
    omega
  · exact .inl (by omega)

/-- Rules R95, R98, R120: the code that stands for a payload length. -/
theorem State.residualCode_eq (s : State) (v : Nat) :
    s.residualCode v = if s.cfg.w = .w32 then 4 - (s.encodeValue v).k
      else if 5 ≤ (s.encodeValue v).k then 8 - (s.encodeValue v).k else 7 - (s.encodeValue v).k := by
  have hlz := lzbc_le s.cfg.w (s.residual v)
  rw [s.encodeValue_k_eq, State.residualCode]
  generalize lzbc s.cfg.w (s.residual v) = lz at hlz
  cases hw : s.cfg.w with
  | w32 =>
    rw [hw, widthBytes_w32] at hlz
    simp only [lzCode_w32, widthBytes_w32, reduceCtorEq, false_and, if_false, if_true]
    omega
  | w64 =>
    rw [hw, widthBytes_w64] at hlz
    simp only [lzCode_w64, widthBytes_w64, true_and, reduceCtorEq, if_false]
    split_ifs <;> omega

/-- Settles O45: the residuals of the statement are those of the model, and the smaller one is the stored one. -/
theorem encodeValueFollowsTheRule : Obligations.EncodeValueFollowsTheRule := by
  intro s v hv modulus rF rD r e
  have hD : xorResidual v s.predD = rD := congrArg (v ^^^ ·) s.predD_eq
  have hr : s.residual v = r := by rw [s.residual_eq_min, hD]; rfl
  refine ⟨?_, ?_, fun k hfit => ?_, s.encodeValue_k_ne_four v, ?_, ?_, ?_, fun j hj => ?_⟩
  · rw [s.encodeValue_field_div, hD]; rfl
  · rw [← hr]; exact s.residual_lt_payload hv
  · exact s.encodeValue_k_le (hr ▸ hfit)
  · rw [s.encodeValue_field_mod, s.encodeValue_k]
  · rw [s.encodeValue_field_mod, s.residualCode_eq]
  · rw [s.encodeValue_bytes, serialize_length]
  · rw [s.encodeValue_bytes, hr, serialize_getElem? hj]

/-! DecodeValue (rule R126) -/

/-- Rule R126: with no more than w bytes, whatever they are. -/
theorem State.decodeValue_lt (s : State) (field : BitVec 4) {bytes : List Byte}
    (hlen : bytes.length ≤ widthBytes s.cfg.w) : s.decodeValue field bytes < 2 ^ widthBits s.cfg.w := by
  refine xorResidual_lt (Nat.lt_of_lt_of_le (deserialize_lt bytes) ?_) (s.pred_lt _)
  rw [widthBits_eq]
  exact Nat.pow_le_pow_right (by decide) (Nat.mul_le_mul_left 8 hlen)

/-- Settles O46: the type bit is the field's high bit. -/
theorem decodeValueFollowsTheRule : Obligations.DecodeValueFollowsTheRule := by
  intro s field bytes
  refine ⟨?_, s.decodeValue_lt field⟩
  rw [State.decodeValue, fieldType_eq, ← s.predD_eq]
  split <;> rfl

/-- Rule R127: the decoder undoes the residual with the prediction that the encoder selected. -/
theorem State.decodeValue_encodeValue (s : State) {v : Nat} (hv : v < 2 ^ widthBits s.cfg.w) :
    s.decodeValue (s.encodeValue v).field (s.encodeValue v).bytes = v := by
  have hbytes : deserialize (s.encodeValue v).bytes = s.residual v := by
    rw [s.encodeValue_bytes, deserialize_serialize_of_lt (s.residual_lt_payload hv)]
  rw [State.decodeValue, hbytes, s.encodeValue_field, fieldType_headerField]
  exact xorResidual_xorResidual v _

/-- Settles O47: the bytes hold the stored residual, and the field names its prediction. -/
theorem encodedValueDecodesBack : Obligations.EncodedValueDecodesBack := by
  intro s v hv e
  refine ⟨?_, ?_, fun hw => ?_, s.decodeValue_encodeValue hv⟩
  · rw [s.encodeValue_bytes, serialize_length]
  · rw [s.encodeValue_field_mod, s.encodeValue_k]
  · rw [s.encodeValue_field_mod]
    simpa [hw] using s.residualCode_le v

/-! An encoder and a decoder in step (rules R43, R127, R260) -/

/-- Rule R76: the slots the predictions read are part of the synchronisation set. -/
theorem State.SyncEq.encodeValue_eq {s t : State} (h : s.SyncEq t) (hs : s.Inv) (v : Nat) :
    t.encodeValue v = s.encodeValue v := by
  have hf : s.tf.read s.fcmHash.toNat = t.tf.read s.fcmHash.toNat := h.tf _ hs.fcmHash_lt
  have hd : s.td.read s.dfcmHash.toNat = t.td.read s.dfcmHash.toNat := h.td _ hs.dfcmHash_lt
  refine State.encodeValue_congr (by rw [h.cfg]) ?_ ?_ v
  · simp only [State.predF, State.memRead, State.ram, State.cursor, ← h.cfg, ← h.fcmHash, hf]
  · rw [s.predD_eq, t.predD_eq, ← h.cfg, ← h.dfcmHash, ← h.prior, hd]

/-- RAMs that agree below a size still do after the same write. -/
theorem Ram.read_write_congr {m n : Ram} {i : Nat} (h : m.read i = n.read i) (j : Nat) (v : Word) :
    (m.write j v).read i = (n.write j v).read i := by
  by_cases hij : i = j
  · rw [hij, Ram.read_write_same, Ram.read_write_same]
  · rw [Ram.read_write_other _ hij, Ram.read_write_other _ hij, h]

/-- Rule R127: Advance reads and writes the synchronisation set only, so that equal values keep it equal. -/
theorem State.SyncEq.advance {s t : State} (h : s.SyncEq t) (v : Nat) : (s.advance v).SyncEq (t.advance v) := by
  have hdelta : s.delta v = t.delta v := by unfold State.delta; rw [h.cfg, h.prior]
  exact {
    cfg := h.cfg
    hargs := h.hargs
    fcmHash := by simp only [State.advance_fcmHash, State.nextFcmHash, h.cfg, h.hargs, h.fcmHash]
    dfcmHash := by simp only [State.advance_dfcmHash, State.nextDfcmHash, hdelta, h.cfg, h.hargs, h.dfcmHash]
    prior := rfl
    tf := fun i hi => by
      rw [State.advance_tf, State.advance_tf, h.fcmHash]
      exact Ram.read_write_congr (h.tf i hi) _ _
    td := fun i hi => by
      rw [State.advance_td, State.advance_td, h.dfcmHash, hdelta]
      exact Ram.read_write_congr (h.td i hi) _ _ }

/-- Of the synchronisation set ENCV and DECV write what Advance writes (rules R151, R153). -/
theorem State.SyncEq.valueSteps {s t : State} (h : s.SyncEq t) {v : Nat} {field : BitVec 4} (source : Option Byte)
    (hv : t.decodedValue field = v) : (s.encodeStep v).SyncEq (t.decodeStep field source) := by
  have hadv := h.advance v
  exact {
    cfg := by simpa using hadv.cfg
    hargs := by simpa using hadv.hargs
    fcmHash := by rw [State.encodeStep_fcmHash, State.decodeStep_fcmHash, hv, hadv.fcmHash]
    dfcmHash := by rw [State.encodeStep_dfcmHash, State.decodeStep_dfcmHash, hv, hadv.dfcmHash]
    prior := by rw [State.encodeStep_prior, State.decodeStep_prior, hv, hadv.prior]
    tf := fun i hi => by
      rw [State.encodeStep_tf, State.decodeStep_tf, hv]
      exact hadv.tf i (by simpa using hi)
    td := fun i hi => by
      rw [State.encodeStep_td, State.decodeStep_td, hv]
      exact hadv.td i (by simpa using hi) }

/-- Rule R151: an accepted ENCV encodes its operand modulo 2^W. -/
theorem exec_encv_of_accepted {s : State} (hs : s.Inv) (hrun : s.errv = false) (hm : s.mode = .enc ∨ s.mode = .size)
    (o : Word) : exec (.encv o) s = .next (s.encodeStep (s.valueOperand o)) := by
  have hmode : acceptedIn (.encv o) s.mode = true := by rcases hm with hm | hm <;> rw [hm] <;> rfl
  change execEncv o s = _
  rw [execEncv, checked_run _ (.inl hrun) rfl hmode, hs.cursorsExist, whereSlots_true]

/-- Rule R153: an accepted DECV decodes once a usable field and its payload bytes are there. -/
theorem exec_decv_of_accepted {s : State} (hs : s.Inv) (hrun : s.errv = false) (hm : s.mode = .dec) {field : BitVec 4}
    {source : Option Byte} (hsrc : s.headerSource = some (field, source)) (hgood : badField s.cfg.w field = false)
    (hlen : payLen s.cfg.w (fieldCode field) ≤ s.payIn.length) :
    exec .decv s = .next (s.decodeStep field source) := by
  change execDecv s = _
  rw [execDecv, checked_run _ (.inl hrun) rfl (by rw [hm]; rfl), hsrc]
  simp [hgood, Nat.not_lt.2 hlen, hs.cursorsExist]

/-- Rules R98, R225: EncodeValue's field is one the decoder accepts. -/
theorem State.badField_encodeValue (s : State) (v : Nat) : badField s.cfg.w (s.encodeValue v).field = false := by
  have hle := s.residualCode_le v
  cases hw : s.cfg.w with
  | w64 => rfl
  | w32 => simpa [badField, hw] using hle

/-- Rule R122: the field says how many bytes there are. -/
theorem State.encodeValue_bytes_length (s : State) (v : Nat) :
    (s.encodeValue v).bytes.length = payLen s.cfg.w (fieldCode (s.encodeValue v).field) := by
  rw [s.encodeValue_bytes, serialize_length, s.encodeValue_k, s.fieldCode_encodeValue]

/-- Rules R153, R127: a DECV at a value's payload bytes decodes that value. -/
theorem State.decodedValue_encodeValue {s : State} {v : Nat} {rest : List Byte} (hv : v < 2 ^ widthBits s.cfg.w)
    (hin : s.payIn = (s.encodeValue v).bytes ++ rest) : s.decodedValue (s.encodeValue v).field = v := by
  rw [State.decodedValue, ← s.encodeValue_bytes_length, hin, List.take_left, s.decodeValue_encodeValue hv]

/-- Settles O49: with equal synchronisation sets the decoder's own EncodeValue of the value is the encoder's, so that
it finds its field and its bytes and gets the value back; then both advance by the same value. -/
theorem encoderAndDecoderStayInStep : Obligations.EncoderAndDecoderStayInStep := by
  intro e d o rest he hd hsync herun hdrun hemode hdmode v x hfield hpay
  have hv : v < 2 ^ widthBits d.cfg.w := hsync.cfg ▸ e.valueOperand_lt o
  have hx : d.encodeValue v = x := hsync.encodeValue_eq he v
  rw [← hx] at hfield hpay
  obtain ⟨source, hsrc⟩ : ∃ source, d.headerSource = some ((d.encodeValue v).field, source) := by
    rcases hfield with ⟨hhalf, hpend⟩ | ⟨hhalf, b, hs, hb, hlow⟩
    · exact ⟨none, by rw [State.headerSource_half hhalf, hpend]⟩
    · exact ⟨some b, by rw [State.headerSource_fresh hhalf hb, ← hlow]; rfl⟩
  have hvalue := State.decodedValue_encodeValue hv hpay
  refine ⟨_, _, exec_encv_of_accepted he herun hemode o,
    exec_decv_of_accepted hd hdrun hdmode hsrc (d.badField_encodeValue v) ?_, ?_, ?_, hsync.valueSteps source hvalue⟩
  · rw [← d.encodeValue_bytes_length, hpay, List.length_append]; exact Nat.le_add_right _ _
  · rw [State.decodeStep_resps, hvalue]
  · rw [State.decodeStep_payIn, ← d.encodeValue_bytes_length, hpay, List.drop_left]

end Sys2Proof.Machine

/-! SUPPORT. The context commands (`41_context.md`) on an engine that accepts them, and what a boot sequence makes of
any such engine (rules R136, R254): O24, O25, O26 and O27. -/

namespace Sys2Proof.Machine

/-! What each command does on an engine that is idle and not halted -/

/-- The engine accepts the context commands and BEGIN (rule R226). -/
structure State.Ready (s : State) : Prop where
  running : s.errv = false
  idle : s.mode = .idle

/-- Rule R226: a ready engine runs every legal command that IDLE accepts. -/
theorem State.Ready.checked_eq {s : State} (h : s.Ready) {i : Instr} (hw : i.wellFormed = true)
    (hi : acceptedIn i .idle = true) (run : Result) : checked i s run = run :=
  checked_run run (.inl h.running) hw (h.idle ▸ hi)

section Ready

variable {s : State} (h : s.Ready)

include h

/-- Rule R130. -/
theorem State.Ready.exec_cfg {f d : BitVec 5} (hf : f.toNat ≤ s.params.maxLog2F.val)
    (hd : d.toNat ≤ s.params.maxLog2D.val) (w : Width) :
    exec (.cfg w f d) s = .next ((s.configure w f d).respond 0) := by
  have hrange : s.cfgInRange f d = true := by simp [State.cfgInRange, hf, hd]
  change execCfg w f d s = _
  rw [execCfg, h.checked_eq rfl rfl, if_pos hrange]

/-- Rule R132. -/
theorem State.Ready.exec_hargs (lf rf ld rd : BitVec 6) :
    exec (.hargs lf rf ld rd) s = .next (({ s with hargs := ⟨lf, rf, ld, rd⟩ } : State).respond 0) :=
  h.checked_eq rfl rfl _

/-- Rule R133. -/
theorem State.Ready.exec_seed (o : Word) : exec (.seed o) s = .next (({ s with seed := o } : State).respond 0) :=
  h.checked_eq rfl rfl _

/-- Rule R134. -/
theorem State.Ready.exec_defaults :
    exec .defaults s = .next (({ s with hargs := defaultHashArgs s.cfg.w, seed := 0 } : State).respond 0) :=
  h.checked_eq rfl rfl _

/-- Rule R135. -/
theorem State.Ready.exec_clear : exec .clear s = .next (s.clearTables.respond 0) := h.checked_eq rfl rfl _

/-- Rule R150, K = 0. -/
theorem State.Ready.exec_beginFresh {m : BitVec 2} (hm : m ≠ 0) :
    exec (.beginCall m false) s = .next (((s.openCall (.ofBits m)).restartPredictor s.cfg.w).respond 0) :=
  h.checked_eq (i := .beginCall m false) ((beginModeLegal_iff m).2 hm) rfl _

end Ready

/-- Settles O24: the checks of an accepted CFG pass, and its effect is one update of the state. -/
theorem cfgConfigures : Obligations.CfgConfigures :=
  fun w _ _ _ hrun hidle hf hd => State.Ready.exec_cfg ⟨hrun, hidle⟩ hf hd w

/-- Rule R11: the default hash arguments, as rule R134 lists them by width. -/
theorem defaultHashArgs_eq (w : Width) :
    defaultHashArgs w = if w = .w64 then ⟨6, 48, 2, 40⟩ else ⟨1, 22, 4, 23⟩ := by cases w <;> rfl

/-- Settles O25: each of the three commands is accepted, and its effect is one update of the state. -/
theorem hargsSeedDefaultsWriteTheirRegisters : Obligations.HargsSeedDefaultsWriteTheirRegisters := by
  intro s hrun hidle
  have ready : s.Ready := ⟨hrun, hidle⟩
  refine ⟨ready.exec_hargs, ready.exec_seed, ?_⟩
  rw [ready.exec_defaults, defaultHashArgs_eq]
  rfl

/-- Settles O26: CLEAR is accepted, and cleared tables read 0 in every slot. -/
theorem clearZeroesBothTables : Obligations.ClearZeroesBothTables := by
  intro s hrun hidle
  exact ⟨_, State.Ready.exec_clear ⟨hrun, hidle⟩, s.clearTables_memRead, rfl⟩

/-! The boot sequence -/

theorem execAll_cons_of_next {i : Instr} {s t : State} (h : exec i s = .next t) (rest : List Instr) :
    execAll (i :: rest) s = execAll rest t := by
  rw [execAll, h]

/-- The set-ups of rule R136 complete and leave hash arguments and a seed that depend on the width alone, not on the
rest of the engine; the engine stays ready and configured. -/
theorem execAll_setup {lf rf ld rd : BitVec 6} {o : Word} {setup : List Instr}
    (hsetup : setup = [.hargs lf rf ld rd, .seed o] ∨ setup = [.defaults]) (w : Width) :
    ∃ (hargs : HashArgs) (seed : Word), ∀ s : State, s.Ready → s.cfg.w = w → ∀ rest, ∃ t : State,
      execAll (setup ++ rest) s = execAll rest t ∧ t.Ready ∧ t.cfg = s.cfg ∧ t.hargs = hargs ∧ t.seed = seed := by
  rcases hsetup with rfl | rfl
  · refine ⟨⟨lf, rf, ld, rd⟩, o, fun s ready _ rest => ?_⟩
    have ready' : (({ s with hargs := ⟨lf, rf, ld, rd⟩ } : State).respond 0).Ready := { ready with }
    exact ⟨_, (execAll_cons_of_next (ready.exec_hargs lf rf ld rd) _).trans
      (execAll_cons_of_next (ready'.exec_seed o) rest), { ready' with }, rfl, rfl, rfl⟩
  · refine ⟨defaultHashArgs w, 0, fun s ready hw rest => ?_⟩
    exact ⟨_, execAll_cons_of_next ready.exec_defaults rest, { ready with }, rfl, congrArg defaultHashArgs hw, rfl⟩

/-- The known state of rules R136 and R254: the synchronisation set and the seed, with zero tables and cursors. -/
structure State.Booted (s : State) (cfg : Cfg) (hargs : HashArgs) (seed : Word) : Prop where
  cfg : s.cfg = cfg
  hargs : s.hargs = hargs
  seed : s.seed = seed
  fcmHash : s.fcmHash = 0
  dfcmHash : s.dfcmHash = 0
  prior : s.prior = BitVec.ofNat 64 (s.seed.toNat % 2 ^ widthBits s.cfg.w)
  tf : s.tf = Ram.cleared
  td : s.td = Ram.cleared

theorem State.Booted.syncEq {s t : State} {cfg : Cfg} {hargs : HashArgs} {seed : Word} (hs : s.Booted cfg hargs seed)
    (ht : t.Booted cfg hargs seed) : s.SyncEq t where
  cfg := hs.cfg.trans ht.cfg.symm
  hargs := hs.hargs.trans ht.hargs.symm
  fcmHash := hs.fcmHash.trans ht.fcmHash.symm
  dfcmHash := hs.dfcmHash.trans ht.dfcmHash.symm
  prior := by rw [hs.prior, ht.prior, hs.seed, ht.seed, hs.cfg, ht.cfg]
  tf := fun _ _ => by rw [hs.tf, ht.tf]
  td := fun _ _ => by rw [hs.td, ht.td]

theorem State.Booted.memRead {s : State} {cfg : Cfg} {hargs : HashArgs} {seed : Word} (h : s.Booted cfg hargs seed)
    (tbl : Table) (i : Nat) : s.memRead tbl i = 0 := by
  cases tbl with
  | fcm => exact congrArg (Ram.read · i) h.tf
  | dfcm => exact congrArg (Ram.read · i) h.td

/-- A 64-bit register holds SEED mod 2^W without loss. -/
theorem State.Booted.prior_toNat {s : State} {cfg : Cfg} {hargs : HashArgs} {seed : Word}
    (h : s.Booted cfg hargs seed) : s.prior.toNat = s.seed.toNat % 2 ^ widthBits cfg.w := by
  rw [h.prior, h.cfg, BitVec.toNat_ofNat]
  exact Nat.mod_eq_of_lt (Nat.lt_of_le_of_lt (Nat.mod_le _ _) s.seed.isLt)

/-- CLEAR and a BEGIN with K = 0 bring a configured engine to the known state of its hash arguments and its seed. -/
theorem execAll_clear_beginFresh {s : State} (h : s.Ready) {m : BitVec 2} (hm : m ≠ 0) :
    ∃ t : State, execAll [.clear, .beginCall m false] s = .next t ∧ t.Booted s.cfg s.hargs s.seed := by
  have ready : (s.clearTables.respond 0).Ready := { h with }
  exact ⟨_, (execAll_cons_of_next h.exec_clear _).trans (execAll_cons_of_next (ready.exec_beginFresh hm) []),
    ⟨rfl, rfl, rfl, rfl, rfl, rfl, rfl, rfl⟩⟩

/-- Rules R136, R254: one boot sequence brings every ready engine whose RAMs are deep enough to one known state. -/
theorem execAll_boot {lf rf ld rd : BitVec 6} {o : Word} {setup : List Instr}
    (hsetup : setup = [.hargs lf rf ld rd, .seed o] ∨ setup = [.defaults]) (w : Width) (f g : BitVec 5)
    {m : BitVec 2} (hm : m ≠ 0) :
    ∃ (hargs : HashArgs) (seed : Word), ∀ s : State, s.Ready → f.toNat ≤ s.params.maxLog2F.val →
      g.toNat ≤ s.params.maxLog2D.val → ∃ t : State,
        execAll (.cfg w f g :: (setup ++ [.clear, .beginCall m false])) s = .next t ∧
          t.Booted ⟨w, f, g⟩ hargs seed := by
  obtain ⟨hargs, seed, settled⟩ := execAll_setup hsetup w
  refine ⟨hargs, seed, fun s ready hf hg => ?_⟩
  have configured : ((s.configure w f g).respond 0).Ready := { ready with }
  obtain ⟨t, hset, tready, (hcfg : t.cfg = ⟨w, f, g⟩), rfl, rfl⟩ := settled _ configured rfl [.clear, .beginCall m false]
  obtain ⟨u, hopen, booted⟩ := execAll_clear_beginFresh tready hm
  refine ⟨u, ?_, hcfg ▸ booted⟩
  rw [execAll_cons_of_next (ready.exec_cfg hf hg w), hset, hopen]

/-- Settles O27: the known state the sequence leads to does not depend on the engine it starts from. -/
theorem bootGivesKnownState : Obligations.BootGivesKnownState := by
  intro e d w f g lf rf ld rd o m herun hdrun heidle hdidle hm hef heg hdf hdg setup hsetup
  obtain ⟨hargs, seed, boot⟩ := execAll_boot hsetup w f g hm
  obtain ⟨e', he, hbe⟩ := boot e ⟨herun, heidle⟩ hef heg
  obtain ⟨d', hd, hbd⟩ := boot d ⟨hdrun, hdidle⟩ hdf hdg
  exact ⟨e', d', he, hd, hbe.syncEq hbd, hbe.seed.trans hbd.seed.symm, hbe.cfg, hbe.fcmHash, hbe.dfcmHash,
    hbe.prior_toNat, fun tbl i => ⟨hbe.memRead tbl i, hbd.memRead tbl i⟩⟩

end Sys2Proof.Machine

/-! SUPPORT. BEGIN, ENCV, DECV and END (`42_stream.md`) on an engine that accepts them: O28, O54, O33, O30, O29, O31
and O32. -/

namespace Sys2Proof.Machine

/-! BEGIN and END -/

/-- The state after an accepted BEGIN (rule R150). -/
def State.begun (s : State) (mode : Mode) (k : Bool) : State :=
  (if k then s.openCall mode else (s.openCall mode).restartPredictor s.cfg.w).respond 0

/-- The state after an accepted END (rule R154). -/
def State.ended (s : State) : State := s.flushHeader.closeCall.respond s.pcount

/-- Rule R150: a ready engine opens the call. -/
theorem State.Ready.exec_begin {s : State} (h : s.Ready) {m : BitVec 2} (hm : m ≠ 0) (k : Bool) :
    exec (.beginCall m k) s = .next (s.begun (.ofBits m) k) :=
  h.checked_eq (i := .beginCall m k) ((beginModeLegal_iff m).2 hm) rfl _

/-- Rule R154: an engine in a call closes it. -/
theorem exec_endCall_of_accepted {s : State} (hrun : s.errv = false) (hm : s.mode ≠ .idle) :
    exec .endCall s = .next s.ended :=
  checked_run _ (.inl hrun) rfl (by simpa [acceptedIn] using hm)

/-- Rule R33: the mode a legal MODE field names. -/
theorem Mode.ofBits_eq {m : BitVec 2} (hm : m ≠ 0) :
    Mode.ofBits m = if m = 1 then .enc else if m = 2 then .size else .dec := by
  revert m
  decide

theorem Mode.ofBits_ne_idle {m : BitVec 2} (hm : m ≠ 0) : Mode.ofBits m ≠ .idle := by
  revert m
  decide

/-- Rule R150 as one update of the state. -/
theorem State.begun_eq (s : State) (mode : Mode) (k : Bool) :
    s.begun mode k = { s with
      mode := mode, half := false, pend := 0, vcount := 0, pcount := 0, hcount := 0
      fcmHash := (if k then s.fcmHash else 0)
      dfcmHash := (if k then s.dfcmHash else 0)
      prior := (if k then s.prior else BitVec.ofNat 64 (s.seed.toNat % 2 ^ widthBits s.cfg.w))
      cmds := s.cmds.tail, resps := s.resps ++ [⟨true, 0⟩] } := by
  cases k <;> rfl

/-- Rule R154 as one update of the state. -/
theorem State.ended_eq (s : State) (hm : s.mode ≠ .idle) :
    s.ended = { s with
      mode := .idle, half := false, pend := 0
      hdrOut := (if s.half = true ∧ s.mode = .enc then s.hdrOut ++ [headerByte s.pend 0] else s.hdrOut)
      hcount := (if s.half = true ∧ s.mode ≠ .dec then s.hcount + 1 else s.hcount)
      cmds := s.cmds.tail, resps := s.resps ++ [⟨true, s.pcount⟩] } := by
  unfold State.ended State.flushHeader
  cases hh : s.half with
  | false => simp [State.closeCall, State.respond_eq]
  | true =>
    cases hmode : s.mode with
    | idle => exact absurd hmode hm
    | enc | size | dec => simp [State.closeCall, State.respond_eq, State.hdrPut]

/-- Settles O28: BEGIN is accepted, and its effect is one update of the state. -/
theorem beginOpensCall : Obligations.BeginOpensCall := by
  intro m k s hrun hidle hm
  rw [State.Ready.exec_begin ⟨hrun, hidle⟩ hm, State.begun_eq, Mode.ofBits_eq hm]

/-- Settles O33: END is accepted, and its effect is one update of the state. -/
theorem endClosesCall : Obligations.EndClosesCall := by
  intro s hrun hm
  rw [exec_endCall_of_accepted hrun hm, s.ended_eq hm]
  rfl

/-- Settles O54: END finds no held field and the counters as BEGIN left them. -/
theorem zeroValueCall : Obligations.ZeroValueCall := by
  intro s m k hrun hidle hm
  have hopen : (s.begun (.ofBits m) k).mode ≠ .idle := by
    rw [State.begun_eq]
    exact Mode.ofBits_ne_idle hm
  have hrun' : (s.begun (.ofBits m) k).errv = false := by
    rw [State.begun_eq]
    exact hrun
  rw [callOf, execAll_cons_of_next (State.Ready.exec_begin ⟨hrun, hidle⟩ hm k), List.nil_append,
    execAll_cons_of_next (exec_endCall_of_accepted hrun' hopen), execAll, State.ended_eq _ hopen, State.begun_eq]
  simp [hidle]

/-! What ENCV and DECV have in common -/

/-- Of its second state `AdvancedBy` speaks of the tables, the cursors and PRIOR only. -/
theorem State.AdvancedBy.congr {s t u : State} {v : Nat} (h : s.AdvancedBy t v) (htf : u.tf = t.tf) (htd : u.td = t.td)
    (hf : u.fcmHash = t.fcmHash) (hd : u.dfcmHash = t.dfcmHash) (hp : u.prior = t.prior) : s.AdvancedBy u v where
  tf_written := by rw [htf, h.tf_written]
  tf_kept := fun i hi => by rw [htf, h.tf_kept i hi]
  td_written := by rw [htd, h.td_written]
  td_kept := fun i hi => by rw [htd, h.td_kept i hi]
  fcmHash_next := by rw [hf, h.fcmHash_next]
  dfcmHash_next := by rw [hd, htd, h.dfcmHash_next]
  prior_next := by rw [hp, h.prior_next]

/-! ENCV -/

/-- Rules R151, R116: ENCV advances by a W-bit value. -/
theorem State.encodeStep_advancedBy {s : State} (hs : s.Inv) {v : Nat} (hv : v < 2 ^ widthBits s.cfg.w) :
    s.AdvancedBy (s.encodeStep v) v :=
  (State.advance_advancedBy hs.flog2_le_23 hs.dlog2_le_23 hv).congr (s.encodeStep_tf v) (s.encodeStep_td v)
    (s.encodeStep_fcmHash v) (s.encodeStep_dfcmHash v) (s.encodeStep_prior v)

theorem State.encodeStep_sameSettings (s : State) (v : Nat) : s.SameSettings (s.encodeStep v) := by
  constructor <;> simp

/-- Rules R99, R122: a value has at most w payload bytes. -/
theorem State.encodeValue_k_le_widthBytes (s : State) (v : Nat) : (s.encodeValue v).k ≤ widthBytes s.cfg.w := by
  rw [s.encodeValue_k]
  exact payLen_le _ _

theorem widthBytes_le (w : Width) : widthBytes w ≤ 8 := by cases w <;> decide

/-- Rule R91: the field and the payload length fit ENCV's response. -/
theorem State.encvData_toNat (s : State) (v : Nat) :
    (encvData (s.encodeValue v)).toNat = (s.encodeValue v).field.toNat * 256 + (s.encodeValue v).k := by
  have hfield := (s.encodeValue v).field.isLt
  have hk := Nat.le_trans (s.encodeValue_k_le_widthBytes v) (widthBytes_le _)
  exact toNat_ofNat_of_lt (by omega)

/-- Settles O29: an accepted ENCV is `encodeStep`, field by field. -/
theorem encvEncodesOneValue : Obligations.EncvEncodesOneValue := by
  intro o s hs hrun hm
  refine ⟨_, exec_encv_of_accepted hs hrun hm o, State.encodeStep_advancedBy hs (s.valueOperand_lt o),
    s.encodeStep_sameSettings _, s.encodeStep_vcount _, s.encodeStep_pcount _, s.encodeStep_hdrIn _,
    s.encodeStep_payIn _, s.encodeStep_cmds _, s.encodeStep_payOut _, fun hfresh => ?_, fun hheld => ?_,
    _, s.encodeStep_resps _, s.encvData_toNat _⟩
  · simp [hfresh, State.valueOperand]
  · simp [hheld, headerByte, State.valueOperand]

/-- Settles O30: no check of ENCV looks at the operand, and its effect depends on the low half only. -/
theorem encvIgnoresUpperHalfAtW32 : Obligations.EncvIgnoresUpperHalfAtW32 := by
  intro s o o' hw hlow
  have hvalue : s.valueOperand o = s.valueOperand o' := by
    unfold State.valueOperand
    rw [hw]
    exact toNat_mod_eq_of_lowHalf_eq hlow
  change execEncv o s = execEncv o' s
  unfold execEncv
  rw [hvalue]
  rfl

/-! DECV -/

/-- Rules R153, R116: DECV advances by the value it decodes. -/
theorem State.decodeStep_advancedBy {s : State} (hs : s.Inv) (field : BitVec 4) (source : Option Byte) :
    s.AdvancedBy (s.decodeStep field source) (s.decodedValue field) :=
  (State.advance_advancedBy hs.flog2_le_23 hs.dlog2_le_23 (s.decodedValue_lt field)).congr
    (s.decodeStep_tf field source) (s.decodeStep_td field source) (s.decodeStep_fcmHash field source)
    (s.decodeStep_dfcmHash field source) (s.decodeStep_prior field source)

theorem State.decodeStep_sameSettings (s : State) (field : BitVec 4) (source : Option Byte) :
    s.SameSettings (s.decodeStep field source) := by
  constructor <;> simp

/-- A decoded value fits DECV's response. -/
theorem State.decodedValue_word (s : State) (field : BitVec 4) :
    (BitVec.ofNat 64 (s.decodedValue field)).toNat = s.decodedValue field :=
  toNat_ofNat_of_lt (Nat.lt_of_lt_of_le (s.decodedValue_lt field) (two_pow_widthBits_le _))

/-- Rules R98, R225: the fields a decoder accepts. -/
theorem badField_eq_false_iff (w : Width) (field : BitVec 4) :
    badField w field = false ↔ (w = .w32 → field.toNat % 8 ≤ 4) := by
  cases w <;> simp [badField, fieldCode_eq]

/-- Rule R153: the pending field if there is one, else the low nibble of the next header byte. -/
theorem State.exists_headerSource {s : State} {field : BitVec 4}
    (h : s.half = true ∧ field = s.pend ∨
      s.half = false ∧ ∃ b rest, s.hdrIn = b :: rest ∧ field = b.extractLsb' 0 4) :
    ∃ source, s.headerSource = some (field, source) := by
  rcases h with ⟨hheld, rfl⟩ | ⟨hfresh, b, rest, hb, rfl⟩
  · exact ⟨none, State.headerSource_half hheld⟩
  · exact ⟨some b, State.headerSource_fresh hfresh hb⟩

/-- Settles O31: a DECV with its input is `decodeStep`, field by field; where the header field comes from is decided by
HALF. -/
theorem decvDecodesOneValue : Obligations.DecvDecodesOneValue := by
  intro s field hs hrun hm hfield hgood hlen
  obtain ⟨source, hsrc⟩ := State.exists_headerSource hfield
  rw [← badField_eq_false_iff] at hgood
  simp only [← fieldCode_eq] at hlen ⊢
  refine ⟨_, exec_decv_of_accepted hs hrun hm hsrc hgood hlen, s.decodedValue_lt field,
    State.decodeStep_advancedBy hs field source, s.decodeStep_sameSettings field source, s.decodeStep_vcount _ _,
    s.decodeStep_pcount _ _, s.decodeStep_hdrOut _ _, s.decodeStep_payOut _ _, s.decodeStep_cmds _ _,
    s.decodeStep_payIn _ _, fun hheld => ?_, fun b rest hfresh hb => ?_, _, s.decodeStep_resps _ _,
    s.decodedValue_word field⟩
  · rw [State.headerSource_half hheld] at hsrc
    obtain ⟨rfl, rfl⟩ := Prod.mk.inj (Option.some.inj hsrc)
    simp
  · rw [State.headerSource_fresh hfresh hb] at hsrc
    obtain ⟨rfl, rfl⟩ := Prod.mk.inj (Option.some.inj hsrc)
    simp [hb, highField]

/-- Rules R153, R252: a step with a DECV at the head of the port, its field and its payload bytes there. -/
theorem step_decv_completes {s : State} {c : Command} {rest : List Command} (hc : s.cmds = c :: rest)
    (hd : decode c = .ok .decv) (hs : s.Inv) (hrun : s.errv = false) (hm : s.mode = .dec) {field : BitVec 4}
    {source : Option Byte} (hsrc : s.headerSource = some (field, source)) (hgood : badField s.cfg.w field = false)
    (hlen : payLen s.cfg.w (fieldCode field) ≤ s.payIn.length) :
    ∃ t r, step s = .next t ∧ t.cmds = rest ∧ t.resps = s.resps ++ [⟨true, r⟩] := by
  refine ⟨_, _, (stepRunsDecodedCommand s c rest .decv hc hd).trans
    (exec_decv_of_accepted hs hrun hm hsrc hgood hlen), ?_, s.decodeStep_resps field source⟩
  rw [State.decodeStep_cmds, hc, List.tail_cons]

/-- Settles O32: a DECV without its input is a wait, and the bytes the host appends leave its header field alone. -/
theorem decvWaitsForItsInput : Obligations.DecvWaitsForItsInput := by
  intro s c rest hc hd hrun hm
  have wait : s.inputMissing → step s = .next s := fun hmissing =>
    State.Waiting.step_eq (.inr ⟨c, rest, hc, hd, hrun, hm, hmissing⟩)
  refine ⟨fun hfresh hempty => wait ?_, fun field hfield hgood => ?_⟩
  · simp [State.inputMissing, State.headerSource_empty hfresh hempty]
  · obtain ⟨source, hsrc⟩ := State.exists_headerSource hfield
    rw [← badField_eq_false_iff] at hgood
    rw [← fieldCode_eq]
    refine ⟨fun hshort => wait ?_, fun hs more hlen => ?_⟩
    · simpa [State.inputMissing, hsrc] using ⟨hgood, hshort⟩
    · have hs' : ({ s with payIn := s.payIn ++ more } : State).Inv := { hs with }
      exact step_decv_completes hc hd hs' hrun hm hsrc hgood (by rwa [List.length_append])

end Sys2Proof.Machine

/-! SUPPORT. Whole encode calls (rules R158-R160): what a run of ENCVs and a call make of an engine, and O52, O51 and
O53. -/

namespace Sys2Proof.Machine

/-! The fields after BEGIN and after END -/

@[simp] theorem State.begun_cfg (s : State) (mode : Mode) (k : Bool) : (s.begun mode k).cfg = s.cfg := by
  rw [State.begun_eq]
@[simp] theorem State.begun_mode (s : State) (mode : Mode) (k : Bool) : (s.begun mode k).mode = mode := by
  rw [State.begun_eq]
@[simp] theorem State.begun_half (s : State) (mode : Mode) (k : Bool) : (s.begun mode k).half = false := by
  rw [State.begun_eq]
@[simp] theorem State.begun_vcount (s : State) (mode : Mode) (k : Bool) : (s.begun mode k).vcount = 0 := by
  rw [State.begun_eq]
@[simp] theorem State.begun_pcount (s : State) (mode : Mode) (k : Bool) : (s.begun mode k).pcount = 0 := by
  rw [State.begun_eq]
@[simp] theorem State.begun_hcount (s : State) (mode : Mode) (k : Bool) : (s.begun mode k).hcount = 0 := by
  rw [State.begun_eq]
@[simp] theorem State.begun_errv (s : State) (mode : Mode) (k : Bool) : (s.begun mode k).errv = s.errv := by
  rw [State.begun_eq]
@[simp] theorem State.begun_hdrOut (s : State) (mode : Mode) (k : Bool) : (s.begun mode k).hdrOut = s.hdrOut := by
  rw [State.begun_eq]
@[simp] theorem State.begun_payOut (s : State) (mode : Mode) (k : Bool) : (s.begun mode k).payOut = s.payOut := by
  rw [State.begun_eq]

@[simp] theorem State.ended_vcount (s : State) : s.ended.vcount = s.vcount := by simp [State.ended]
@[simp] theorem State.ended_pcount (s : State) : s.ended.pcount = s.pcount := by simp [State.ended]
@[simp] theorem State.ended_errv (s : State) : s.ended.errv = s.errv := by simp [State.ended]
@[simp] theorem State.ended_payOut (s : State) : s.ended.payOut = s.payOut := by simp [State.ended]
@[simp] theorem State.ended_resps (s : State) : s.ended.resps = s.resps ++ [⟨true, s.pcount⟩] := by simp [State.ended]

/-! A run of ENCVs, and a call -/

/-- Rule R151: the parts of an ENCV in turn. -/
theorem State.encodeStep_eq (s : State) (v : Nat) :
    s.encodeStep v = ((((s.advance v).packEnc (s.encodeValue v).field).emitPayload (s.encodeValue v).bytes).countValue
      (s.encodeValue v).k).respond (encvData (s.encodeValue v)) := rfl

/-- The state after accepted ENCVs of the operands in turn (rule R151). -/
def State.encodeAll (s : State) : List Word → State
  | [] => s
  | o :: os => (s.encodeStep (s.valueOperand o)).encodeAll os

/-- The state after an accepted call of ENCVs (rules R150, R151, R154). -/
def State.encodeCall (s : State) (mode : Mode) (k : Bool) (vs : List Word) : State :=
  ((s.begun mode k).encodeAll vs).ended

@[simp] theorem State.encodeAll_nil (s : State) : s.encodeAll [] = s := rfl

@[simp] theorem State.encodeAll_cons (s : State) (o : Word) (os : List Word) :
    s.encodeAll (o :: os) = (s.encodeStep (s.valueOperand o)).encodeAll os := rfl

theorem State.encodeAll_append (s : State) (vs us : List Word) :
    s.encodeAll (vs ++ us) = (s.encodeAll vs).encodeAll us := by
  induction vs generalizing s with
  | nil => rfl
  | cons o os ih => exact ih _

@[simp] theorem State.encodeAll_mode (s : State) (vs : List Word) : (s.encodeAll vs).mode = s.mode := by
  induction vs generalizing s with
  | nil => rfl
  | cons o os ih => rw [State.encodeAll_cons, ih, State.encodeStep_mode]

/-- The engine accepts BEGIN (rule R226), and its tables hold the slots the call will access. -/
structure State.CanBegin (s : State) : Prop extends s.Ready where
  inv : s.Inv

/-- The engine accepts ENCV (rule R226), and its tables hold the slots ENCV accesses. -/
structure State.CanEncode (s : State) : Prop where
  inv : s.Inv
  running : s.errv = false
  encodes : s.mode = .enc ∨ s.mode = .size

theorem State.CanEncode.mode_ne_idle {s : State} (h : s.CanEncode) : s.mode ≠ .idle := by
  rcases h.encodes with hm | hm <;> simp [hm]

/-- Rule R150: BEGIN of an encode or a SIZE call. -/
theorem State.CanBegin.begun {s : State} (h : s.CanBegin) {m : BitVec 2} (hm : m = 1 ∨ m = 2) (k : Bool) :
    (s.begun (.ofBits m) k).CanEncode where
  inv := by
    have hlegal : m ≠ 0 := by rcases hm with rfl | rfl <;> decide
    cases k with
    | false => exact h.inv.effect (.beginFresh h.idle hlegal)
    | true => exact h.inv.effect (.beginContinued h.idle hlegal)
  running := by rw [State.begun_errv, h.running]
  encodes := by
    rw [State.begun_mode]
    rcases hm with rfl | rfl <;> decide

theorem State.CanEncode.encodeStep {s : State} (h : s.CanEncode) (o : Word) :
    (s.encodeStep (s.valueOperand o)).CanEncode where
  inv := h.inv.effect (.encv h.encodes h.inv.cursorsExist)
  running := by rw [State.encodeStep_errv, h.running]
  encodes := by rw [State.encodeStep_mode]; exact h.encodes

theorem State.CanEncode.encodeAll {s : State} (h : s.CanEncode) (vs : List Word) : (s.encodeAll vs).CanEncode := by
  induction vs generalizing s with
  | nil => exact h
  | cons o os ih => exact ih (h.encodeStep o)

/-- Rule R154: after END the next call can begin. -/
theorem State.CanEncode.ended {s : State} (h : s.CanEncode) : s.ended.CanBegin where
  running := by rw [State.ended_errv, h.running]
  idle := rfl
  inv := h.inv.effect (.endCall h.mode_ne_idle)

theorem State.CanBegin.encodeCall {s : State} (h : s.CanBegin) {m : BitVec 2} (hm : m = 1 ∨ m = 2) (k : Bool)
    (vs : List Word) : (s.encodeCall (.ofBits m) k vs).CanBegin := ((h.begun hm k).encodeAll vs).ended

/-- Rule R151: the ENCVs of a call complete, whatever follows them. -/
theorem State.CanEncode.execAll_encvs {s : State} (h : s.CanEncode) (vs : List Word) (rest : List Instr) :
    execAll (vs.map .encv ++ rest) s = execAll rest (s.encodeAll vs) := by
  induction vs generalizing s with
  | nil => rfl
  | cons o os ih =>
    have hexec := exec_encv_of_accepted h.inv h.running h.encodes o
    rw [List.map_cons, List.cons_append, execAll_cons_of_next hexec, ih (h.encodeStep o), State.encodeAll_cons]

/-- A call of ENCVs completes, whatever follows it. -/
theorem State.CanBegin.execAll_callOf_append {s : State} (h : s.CanBegin) {m : BitVec 2} (hm : m = 1 ∨ m = 2) (k : Bool)
    (vs : List Word) (rest : List Instr) :
    execAll (callOf m k (vs.map .encv) ++ rest) s = execAll rest (s.encodeCall (.ofBits m) k vs) := by
  have hlegal : m ≠ 0 := by rcases hm with rfl | rfl <;> decide
  have hlast := (h.begun hm k).encodeAll vs
  rw [callOf, List.cons_append, List.append_assoc, execAll_cons_of_next (h.exec_begin hlegal k),
    (h.begun hm k).execAll_encvs, List.singleton_append,
    execAll_cons_of_next (exec_endCall_of_accepted hlast.running hlast.mode_ne_idle), State.encodeCall]

theorem State.CanBegin.execAll_callOf {s : State} (h : s.CanBegin) {m : BitVec 2} (hm : m = 1 ∨ m = 2) (k : Bool)
    (vs : List Word) : execAll (callOf m k (vs.map .encv)) s = .next (s.encodeCall (.ofBits m) k vs) := by
  simpa [execAll] using h.execAll_callOf_append hm k vs []

/-! A SIZE call beside an ENC call (rule R159) -/

/-- The engine in a SIZE call instead, with other output streams. -/
def State.asSize (s : State) (hdr pay : List Byte) : State :=
  { s with mode := .size, hdrOut := hdr, payOut := pay }

theorem State.begun_size (s : State) (k : Bool) : s.begun .size k = (s.begun .enc k).asSize s.hdrOut s.payOut := by
  rw [State.begun_eq, State.begun_eq]
  rfl

theorem State.advance_asSize (s : State) (hdr pay : List Byte) (v : Nat) :
    (s.asSize hdr pay).advance v = (s.advance v).asSize hdr pay := rfl

theorem State.encodeValue_asSize (s : State) (hdr pay : List Byte) (v : Nat) :
    (s.asSize hdr pay).encodeValue v = s.encodeValue v := rfl

theorem State.countValue_asSize (s : State) (hdr pay : List Byte) (k : Nat) :
    (s.asSize hdr pay).countValue k = (s.countValue k).asSize hdr pay := rfl

theorem State.respond_asSize (s : State) (hdr pay : List Byte) (data : Word) :
    (s.asSize hdr pay).respond data = (s.respond data).asSize hdr pay := rfl

section AsSize

variable {s : State} (hm : s.mode = .enc) (hdr pay : List Byte)

include hm

/-- Rule R152: SIZE holds and counts the header fields as ENC does. -/
theorem State.packEnc_asSize (field : BitVec 4) :
    (s.asSize hdr pay).packEnc field = (s.packEnc field).asSize hdr pay := by
  unfold State.packEnc
  cases hh : s.half <;> simp [State.asSize, State.hdrPut, hh, hm]

theorem State.emitPayload_asSize (bytes : List Byte) :
    (s.asSize hdr pay).emitPayload bytes = (s.emitPayload bytes).asSize hdr pay := by
  simp [State.emitPayload, State.asSize, State.payPut, hm]

/-- Rule R151: what ENCV computes and counts is the same in both calls, whatever the output streams hold. -/
theorem State.encodeStep_asSize (v : Nat) : (s.asSize hdr pay).encodeStep v = (s.encodeStep v).asSize hdr pay := by
  rw [State.encodeStep_eq, State.encodeStep_eq, State.advance_asSize, State.encodeValue_asSize,
    State.packEnc_asSize (s := s.advance v) hm, State.emitPayload_asSize (by simp [hm]), State.countValue_asSize,
    State.respond_asSize]

theorem State.encodeAll_asSize (vs : List Word) :
    (s.asSize hdr pay).encodeAll vs = (s.encodeAll vs).asSize hdr pay := by
  induction vs generalizing s with
  | nil => rfl
  | cons o os ih =>
    rw [State.encodeAll_cons, State.encodeStep_asSize hm]
    exact ih (by rw [State.encodeStep_mode, hm])

/-- Rule R154: END counts the odd last field in SIZE as in ENC. -/
theorem State.ended_asSize : (s.asSize hdr pay).ended = { s.ended with hdrOut := hdr, payOut := pay } := by
  rw [State.ended_eq (s.asSize hdr pay) (by simp [State.asSize]), State.ended_eq s (by simp [hm])]
  simp [State.asSize, hm]

end AsSize

/-- Rule R159: the two calls open in states that differ in the mode alone, and end in the same mode. -/
theorem State.encodeCall_size (s : State) (k : Bool) (vs : List Word) :
    s.encodeCall .size k vs = { s.encodeCall .enc k vs with hdrOut := s.hdrOut, payOut := s.payOut } := by
  unfold State.encodeCall
  rw [s.begun_size, State.encodeAll_asSize (s.begun_mode .enc k), State.ended_asSize (by simp)]

/-- Settles O52: both calls complete, and END undoes the difference in the mode. -/
theorem sizeCallMatchesEncCall : Obligations.SizeCallMatchesEncCall := by
  intro s vs k hs hrun hidle
  have hbegin : s.CanBegin := ⟨⟨hrun, hidle⟩, hs⟩
  exact ⟨_, _, hbegin.execAll_callOf (.inl rfl) k vs, hbegin.execAll_callOf (.inr rfl) k vs, s.encodeCall_size k vs⟩

/-! The counts of a call (rule R158) -/

/-- `t` is `s` after `n` values whose ENCVs emitted the header bytes `hs` and the payload bytes `ps`: the counters count
them, and every two values share a header byte. -/
structure State.Emitted (s t : State) (n : Nat) (hs ps : List Byte) : Prop where
  hdrOut : t.hdrOut = s.hdrOut ++ hs
  payOut : t.payOut = s.payOut ++ ps
  vcount : t.vcount = s.vcount + BitVec.ofNat 64 n
  hcount : t.hcount = s.hcount + BitVec.ofNat 64 hs.length
  pcount : t.pcount = s.pcount + BitVec.ofNat 64 ps.length
  width : t.cfg.w = s.cfg.w
  payload_le : ps.length ≤ n * widthBytes s.cfg.w
  fields : 2 * hs.length + t.half.toNat = n + s.half.toNat

theorem State.Emitted.refl (s : State) : s.Emitted s 0 [] [] := by constructor <;> simp

theorem State.Emitted.trans {s t u : State} {n m : Nat} {hs hs' ps ps' : List Byte} (h : s.Emitted t n hs ps)
    (h' : t.Emitted u m hs' ps') : s.Emitted u (n + m) (hs ++ hs') (ps ++ ps') where
  hdrOut := by rw [h'.hdrOut, h.hdrOut, List.append_assoc]
  payOut := by rw [h'.payOut, h.payOut, List.append_assoc]
  vcount := by rw [h'.vcount, h.vcount, BitVec.add_assoc, ← BitVec.ofNat_add]
  hcount := by rw [h'.hcount, h.hcount, BitVec.add_assoc, ← BitVec.ofNat_add, List.length_append]
  pcount := by rw [h'.pcount, h.pcount, BitVec.add_assoc, ← BitVec.ofNat_add, List.length_append]
  width := h'.width.trans h.width
  payload_le := by
    have hle := h'.payload_le
    rw [h.width] at hle
    rw [List.length_append, Nat.add_mul]
    exact Nat.add_le_add h.payload_le hle
  fields := by
    have := h.fields
    have := h'.fields
    rw [List.length_append]
    omega

/-- Rules R151, R152: one ENCV of an ENC call. -/
theorem State.emitted_encodeStep {s : State} (hm : s.mode = .enc) (v : Nat) :
    s.Emitted (s.encodeStep v) 1 (if s.half then [headerByte s.pend (s.encodeValue v).field] else [])
      (s.encodeValue v).bytes where
  hdrOut := by cases hh : s.half <;> simp [hh, hm]
  payOut := by simp [hm]
  vcount := s.encodeStep_vcount v
  hcount := by cases hh : s.half <;> simp [hh]
  pcount := by rw [State.encodeStep_pcount, State.encodeValue_bytes, serialize_length]
  width := by rw [State.encodeStep_cfg]
  payload_le := by
    rw [State.encodeValue_bytes, serialize_length, Nat.one_mul]
    exact s.encodeValue_k_le_widthBytes v
  fields := by cases hh : s.half <;> simp [hh]

theorem State.exists_emitted_encodeAll {s : State} (hm : s.mode = .enc) (vs : List Word) :
    ∃ hs ps, s.Emitted (s.encodeAll vs) vs.length hs ps := by
  induction vs generalizing s with
  | nil => exact ⟨[], [], .refl s⟩
  | cons o os ih =>
    have hstep := State.emitted_encodeStep hm (s.valueOperand o)
    obtain ⟨hs, ps, hrest⟩ := ih ((s.encodeStep_mode _).trans hm)
    rw [List.length_cons, Nat.add_comm]
    exact ⟨_, _, hstep.trans hrest⟩

/-- Rule R154: END of an ENC call emits and counts a byte for a held field. -/
theorem State.exists_ended_header {s : State} (hm : s.mode = .enc) :
    ∃ last, s.ended.hdrOut = s.hdrOut ++ last ∧ s.ended.hcount = s.hcount + BitVec.ofNat 64 last.length ∧
      last.length = s.half.toNat := by
  refine ⟨if s.half then [headerByte s.pend 0] else [], ?_⟩
  rw [s.ended_eq (by simp [hm])]
  cases hh : s.half <;> simp [hm]

/-- Rule R158: what an ENC call emits, and its counts modulo 2^64. -/
theorem State.exists_encodeCall_counts (s : State) (k : Bool) (vs : List Word) :
    ∃ hs ps, (s.encodeCall .enc k vs).hdrOut = s.hdrOut ++ hs ∧ (s.encodeCall .enc k vs).payOut = s.payOut ++ ps ∧
      hs.length = (vs.length + 1) / 2 ∧ ps.length ≤ vs.length * widthBytes s.cfg.w ∧
      (s.encodeCall .enc k vs).vcount = BitVec.ofNat 64 vs.length ∧
      (s.encodeCall .enc k vs).hcount = BitVec.ofNat 64 hs.length ∧
      (s.encodeCall .enc k vs).pcount = BitVec.ofNat 64 ps.length := by
  obtain ⟨hs, ps, h⟩ := State.exists_emitted_encodeAll (s.begun_mode .enc k) vs
  obtain ⟨last, hout, hcount, hlast⟩ := State.exists_ended_header
    ((State.encodeAll_mode _ vs).trans (s.begun_mode .enc k))
  have hfields := h.fields
  simp only [State.begun_half, Bool.toNat_false] at hfields
  refine ⟨hs ++ last, ps, ?_, ?_, ?_, ?_, ?_, ?_, ?_⟩
  · rw [State.encodeCall, hout, h.hdrOut, State.begun_hdrOut, List.append_assoc]
  · rw [State.encodeCall, State.ended_payOut, h.payOut, State.begun_payOut]
  · have := ((s.begun .enc k).encodeAll vs).half.toNat_lt
    rw [List.length_append]
    omega
  · simpa using h.payload_le
  · rw [State.encodeCall, State.ended_vcount, h.vcount, State.begun_vcount, zero_add]
  · rw [State.encodeCall, hcount, h.hcount, State.begun_hcount, zero_add, ← BitVec.ofNat_add, List.length_append]
  · rw [State.encodeCall, State.ended_pcount, h.pcount, State.begun_pcount, zero_add]

/-- Settles O51: the call emits at most `8 n` bytes of either kind, so that no counter wraps. -/
theorem callCounts : Obligations.CallCounts := by
  intro s vs k hs hrun hidle hsmall
  have hbegin : s.CanBegin := ⟨⟨hrun, hidle⟩, hs⟩
  obtain ⟨hdr, pay, hout, pout, hlen, plen, hv, hh, hp⟩ := s.exists_encodeCall_counts k vs
  have hbytes : vs.length * widthBytes s.cfg.w ≤ vs.length * 8 := Nat.mul_le_mul_left _ (widthBytes_le _)
  refine ⟨_, hdr, pay, hbegin.execAll_callOf (.inl rfl) k vs, hout, pout, ?_, ?_, hlen, ?_, plen, ?_⟩
  · exact (congrArg BitVec.toNat hv).trans (toNat_ofNat_of_lt (by omega))
  · exact (congrArg BitVec.toNat hh).trans ((toNat_ofNat_of_lt (by omega)).trans hlen)
  · exact (congrArg BitVec.toNat hp).trans (toNat_ofNat_of_lt (by omega))
  · simp [State.encodeCall]

/-! A continued call (rule R160) -/

/-- The engine without its counters and ports, which the streams, the tables, the cursors and PRIOR do not depend on. -/
def State.uncounted (s : State) : State :=
  { s with vcount := 0, pcount := 0, hcount := 0, cmds := [], resps := [] }

theorem State.packEnc_uncounted (s : State) (field : BitVec 4) :
    (s.packEnc field).uncounted = (s.uncounted.packEnc field).uncounted := by
  unfold State.packEnc
  cases hh : s.half <;> by_cases hm : s.mode = .enc <;> simp [State.uncounted, State.hdrPut, hh, hm]

theorem State.emitPayload_uncounted (s : State) (bytes : List Byte) :
    (s.emitPayload bytes).uncounted = s.uncounted.emitPayload bytes := by
  unfold State.emitPayload
  by_cases hm : s.mode = .enc <;> simp [State.uncounted, State.payPut, hm]

theorem State.respond_uncounted (s : State) (data : Word) : (s.respond data).uncounted = s.uncounted := rfl

theorem State.countValue_uncounted (s : State) (k : Nat) : (s.countValue k).uncounted = s.uncounted := rfl

theorem State.advance_uncounted (s : State) (v : Nat) : (s.advance v).uncounted = s.uncounted.advance v := rfl

theorem State.encodeValue_uncounted (s : State) (v : Nat) : s.uncounted.encodeValue v = s.encodeValue v := rfl

/-- Rule R151: ENCV only adds to the counters and the ports. -/
theorem State.encodeStep_uncounted (s : State) (v : Nat) :
    (s.encodeStep v).uncounted = (s.uncounted.encodeStep v).uncounted := by
  simp only [State.encodeStep_eq, State.respond_uncounted, State.countValue_uncounted, State.emitPayload_uncounted,
    State.encodeValue_uncounted]
  rw [State.packEnc_uncounted, State.advance_uncounted]

theorem State.encodeAll_uncounted (s : State) (vs : List Word) :
    (s.encodeAll vs).uncounted = (s.uncounted.encodeAll vs).uncounted := by
  induction vs generalizing s with
  | nil => rfl
  | cons o os ih =>
    calc (s.encodeAll (o :: os)).uncounted
      _ = ((s.encodeStep (s.valueOperand o)).uncounted.encodeAll os).uncounted := ih _
      _ = ((s.uncounted.encodeStep (s.valueOperand o)).uncounted.encodeAll os).uncounted := by
        rw [State.encodeStep_uncounted]
      _ = (s.uncounted.encodeAll (o :: os)).uncounted := (ih _).symm

theorem State.ended_uncounted {s : State} (hm : s.mode ≠ .idle) : s.ended.uncounted = s.uncounted.ended.uncounted := by
  rw [s.ended_eq hm, s.uncounted.ended_eq hm]
  rfl

/-- Rules R150, R154: where no field is held, END and a BEGIN with K = 1 undo each other. -/
theorem State.ended_begun_uncounted {s : State} (hm : s.mode = .enc) (hhalf : s.half = false) (hpend : s.pend = 0) :
    (s.ended.begun .enc true).uncounted = s.uncounted := by
  rw [State.begun_eq, s.ended_eq (by simp [hm])]
  simp [State.uncounted, hm, hhalf, hpend]

/-- Rule R152: after an even number of values no field is held. -/
theorem State.encodeAll_half_of_even {s : State} (hm : s.mode = .enc) (hhalf : s.half = false) {vs : List Word}
    (heven : vs.length % 2 = 0) : (s.encodeAll vs).half = false := by
  obtain ⟨hs, ps, h⟩ := State.exists_emitted_encodeAll hm vs
  have hfields := h.fields
  rw [hhalf] at hfields
  cases hh : (s.encodeAll vs).half with
  | false => rfl
  | true =>
    simp only [hh, Bool.toNat_true, Bool.toNat_false] at hfields
    omega

/-- Rule R160: counters and ports aside, the END and the BEGIN in the middle change nothing. -/
theorem State.encodeCall_encodeCall_uncounted {s : State} (h : s.CanBegin) (k : Bool) {vs : List Word}
    (heven : vs.length % 2 = 0) (us : List Word) :
    ((s.encodeCall .enc k vs).encodeCall .enc true us).uncounted = (s.encodeCall .enc k (vs ++ us)).uncounted := by
  have hopen : (s.begun .enc k).CanEncode := h.begun (m := 1) (.inl rfl) k
  have hhalf : ((s.begun .enc k).encodeAll vs).half = false :=
    State.encodeAll_half_of_even (s.begun_mode .enc k) (s.begun_half .enc k) heven
  have hmiddle := State.ended_begun_uncounted (by simp) hhalf ((hopen.encodeAll vs).inv.pend_zero hhalf)
  unfold State.encodeCall
  rw [State.encodeAll_append, State.ended_uncounted (by simp), State.encodeAll_uncounted, hmiddle,
    ← State.encodeAll_uncounted, ← State.ended_uncounted (by simp)]

theorem State.fields_eq_of_uncounted_eq {s t : State} (h : s.uncounted = t.uncounted) :
    s.hdrOut = t.hdrOut ∧ s.payOut = t.payOut ∧ s.tf = t.tf ∧ s.td = t.td ∧ s.fcmHash = t.fcmHash ∧
      s.dfcmHash = t.dfcmHash ∧ s.prior = t.prior := by
  simp only [State.uncounted, State.mk.injEq] at h
  simp [h]

/-- Settles O53: all calls complete, and what the statement compares is neither a counter nor a port. -/
theorem continuedCallEqualsOneCall : Obligations.ContinuedCallEqualsOneCall := by
  intro s vs us k hs hrun hidle heven
  have hbegin : s.CanBegin := ⟨⟨hrun, hidle⟩, hs⟩
  have hagain := (hbegin.encodeCall (.inl rfl) k vs).execAll_callOf (m := 1) (.inl rfl) true us
  exact ⟨_, _, (hbegin.execAll_callOf_append (.inl rfl) k vs _).trans hagain,
    hbegin.execAll_callOf (.inl rfl) k (vs ++ us),
    State.fields_eq_of_uncounted_eq (State.encodeCall_encodeCall_uncounted hbegin k heven us)⟩

end Sys2Proof.Machine

/-! SUPPORT. The access and control commands (`43_access.md`) on an engine that accepts them: what NOP, ERRCLR, RDREG,
RDTBL and WRTBL do, and O37, O34, O35, O36 and O38. -/

namespace Sys2Proof.Machine

/-! NOP and ERRCLR -/

/-- Rule R180: every engine accepts NOP. -/
theorem exec_nop (s : State) : exec .nop s = .next (s.respond 0) := checked_run _ (.inr rfl) rfl rfl

/-- Rule R184: every engine accepts ERRCLR. -/
theorem exec_errclr (s : State) : exec .errclr s = .next (s.clearError.respond 0) := checked_run _ (.inr rfl) rfl rfl

/-- Settles O34: NOP's effect is its response. -/
theorem nopRespondsZero : Obligations.NopRespondsZero := by
  intro s
  rw [exec_nop, State.respond_eq]

/-- Settles O38: ERRCLR's effect is `State.clearError` and a response. -/
theorem errclrClearsAndAborts : Obligations.ErrclrClearsAndAborts := by
  intro s
  rw [exec_errclr, State.respond_eq]
  rfl

/-! RDREG -/

/-- Rules R86, R181: the SEL values that name a register are the legal ones. -/
theorem Reg.isSome_ofSel (sel : BitVec 4) : (Reg.ofSel sel).isSome = selLegal sel := by
  revert sel
  decide

/-- Rule R181: every engine accepts RDREG of a register. -/
theorem exec_rdreg {sel : BitVec 4} {r : Reg} (h : Reg.ofSel sel = some r) (s : State) :
    exec (.rdreg sel) s = .next (s.respond (s.view r)) := by
  have hlegal : (Instr.rdreg sel).wellFormed = true := by
    rw [Instr.wellFormed, ← Reg.isSome_ofSel, h, Option.isSome_some]
  change execRdreg sel s = _
  rw [execRdreg, checked_run _ (.inr rfl) hlegal rfl, h]

/-- Rules R221, R227: a command term that is not legal raises ILLEGAL, past the halted gate. -/
theorem checked_illegal {i : Instr} {s : State} (run : Result) (hh : s.errv = false ∨ acceptedHalted i = true)
    (hw : i.wellFormed = false) : checked i s run = .next (s.raise .illegal) := by
  unfold checked
  rcases hh with hh | hh <;> simp [hh, hw]

/-- Rules R90, R181: RDREG of a reserved SEL raises ILLEGAL, while halted too. -/
theorem exec_rdreg_reserved {sel : BitVec 4} (h : 11 ≤ sel.toNat) (s : State) :
    exec (.rdreg sel) s = .next (s.raise .illegal) := by
  have hreserved : (Instr.rdreg sel).wellFormed = false := by
    rw [Instr.wellFormed, Bool.eq_false_iff, Ne, selLegal_iff]
    omega
  exact checked_illegal _ (.inr rfl) hreserved

/-! The register views as numbers: no packed view exceeds 64 bits, so each is the sum of its fields -/

/-- Rule R39. -/
theorem State.status_toNat (s : State) :
    s.status.toNat = s.mode.bits.toNat + 4 * s.half.toNat + 8 * s.errv.toNat + 16 * s.pend.toNat
      + 256 * s.errcode.toNat := by
  have hmode := s.mode.bits.isLt
  have hhalf := s.half.toNat_lt
  have herrv := s.errv.toNat_lt
  have hpend := s.pend.isLt
  have hcode := s.errcode.isLt
  rw [State.status, toNat_ofNat_of_lt (by omega)]
  omega

/-- Rule R22: CFG.W is 1 at W = 32. -/
theorem Width.bit_toNat (w : Width) : w.bit.toNat = if w = .w32 then 1 else 0 := by cases w <;> rfl

/-- Rule R22. -/
theorem cfgView_toNat (c : Cfg) :
    (cfgView c).toNat = (if c.w = .w32 then 256 else 0) + 2 ^ 16 * c.flog2.toNat + 2 ^ 24 * c.dlog2.toNat := by
  have hf := c.flog2.isLt
  have hd := c.dlog2.isLt
  have hw := c.w.bit.isLt
  rw [cfgView, toNat_ofNat_of_lt (by omega), Width.bit_toNat]
  split <;> omega

/-- Rule R24. -/
theorem hargsView_toNat (h : HashArgs) :
    (hargsView h).toNat = 2 ^ 8 * h.lf.toNat + 2 ^ 14 * h.rf.toNat + 2 ^ 20 * h.ld.toNat + 2 ^ 26 * h.rd.toNat := by
  have hlf := h.lf.isLt
  have hrf := h.rf.isLt
  have hld := h.ld.isLt
  have hrd := h.rd.isLt
  rw [hargsView, toNat_ofNat_of_lt (by omega)]
  omega

/-- Rule R40. -/
theorem paramsView_toNat (p : Params) : (paramsView p).toNat = p.maxLog2F.val + 2 ^ 8 * p.maxLog2D.val := by
  have hf := p.maxLog2F.isLt
  have hd := p.maxLog2D.isLt
  rw [paramsView, toNat_ofNat_of_lt (by omega)]
  omega

/-- Rule R181: a cursor is zero-extended. -/
theorem cursor_setWidth_toNat (h : BitVec 23) : (h.setWidth 64).toNat = h.toNat :=
  BitVec.toNat_setWidth_of_le (by decide)

/-- Settles O35: SEL 0 to 10 name the eleven registers in order, each with the number its view is; a reserved SEL
raises ILLEGAL. -/
theorem rdregRespondsTheView : Obligations.RdregRespondsTheView := by
  intro s answers
  have view {sel : BitVec 4} {r : Reg} (h : Reg.ofSel sel = some r) {n : Nat} (hn : (s.view r).toNat = n) :
      answers sel n :=
    ⟨s.view r, hn, exec_rdreg h s⟩
  refine ⟨view (r := .status) rfl s.status_toNat, view (r := .cfg) rfl (cfgView_toNat _),
    view (r := .hargs) rfl (hargsView_toNat _), view (r := .seed) rfl rfl,
    view (r := .fcmhash) rfl (cursor_setWidth_toNat _), view (r := .dfcmhash) rfl (cursor_setWidth_toNat _),
    view (r := .prior) rfl rfl, view (r := .vcount) rfl rfl, view (r := .pcount) rfl rfl,
    view (r := .hcount) rfl rfl, view (r := .params) rfl (paramsView_toNat _), fun sel hsel => ?_⟩
  rw [exec_rdreg_reserved hsel, State.raise_eq]
  rfl

/-! RDTBL and WRTBL -/

section Ready

variable {s : State} (h : s.Ready) (hs : s.Inv) {tbl : Table} {i : BitVec 23} (hi : i.toNat < 2 ^ s.sizeLog2 tbl)

include h hs hi

/-- Rule R182: a ready engine reads a slot below the configured size, which exists. -/
theorem State.Ready.exec_rdtbl : exec (.rdtbl tbl i) s = .next (s.respond (s.memRead tbl i.toNat)) := by
  have hsize : s.indexInSize tbl i = true := decide_eq_true hi
  change execRdtbl tbl i s = _
  rw [execRdtbl, h.checked_eq rfl rfl, if_pos hsize, hs.slotExists hsize, whereSlots_true]

/-- Rule R183: a ready engine writes a slot below the configured size, which exists. -/
theorem State.Ready.exec_wrtbl (o : Word) :
    exec (.wrtbl tbl i o) s = .next ((s.memWrite tbl i.toNat o).respond 0) := by
  have hsize : s.indexInSize tbl i = true := decide_eq_true hi
  change execWrtbl tbl i o s = _
  rw [execWrtbl, h.checked_eq rfl rfl, if_pos hsize, hs.slotExists hsize, whereSlots_true]

end Ready

/-- A response leaves every slot of both tables. -/
@[simp] theorem State.respond_memRead (s : State) (data : Word) (tbl : Table) (n : Nat) :
    (s.respond data).memRead tbl n = s.memRead tbl n := by cases tbl <;> rfl

/-- Rule R15: MemWrite changes the tables only. -/
theorem State.memWrite_eq (s : State) (tbl : Table) (n : Nat) (v : Word) :
    s.memWrite tbl n v = { s with tf := (s.memWrite tbl n v).tf, td := (s.memWrite tbl n v).td } := by
  cases tbl <;> rfl

/-- Settles O36: RDTBL is accepted, its slot exists, and its effect is the response. -/
theorem rdtblRespondsTheSlot : Obligations.RdtblRespondsTheSlot := fun s _ hs hrun hidle =>
  have ready : s.Ready := ⟨hrun, hidle⟩
  ⟨ready.exec_rdtbl (tbl := .fcm) hs, ready.exec_rdtbl (tbl := .dfcm) hs⟩

/-- Settles O37: WRTBL is accepted, its slot exists, and its effect is one MemWrite and the response. -/
theorem wrtblWritesOneSlot : Obligations.WrtblWritesOneSlot := by
  intro s tbl i o hs hrun hidle hi
  refine ⟨_, State.Ready.exec_wrtbl ⟨hrun, hidle⟩ hs hi o, ?written, ?kept, ?frame⟩
  case written => rw [State.respond_memRead, State.memWrite_memRead_same]
  case kept =>
    intro tbl' j hne
    rw [State.respond_memRead, State.memWrite_memRead_other s hne]
  case frame =>
    rw [State.memWrite_eq]
    rfl

end Sys2Proof.Machine

/-! SUPPORT. Errors and the halted state (`60_exceptions.md`): what a failing step leaves, the way out of the halt, and
the command that raises each cause: O16, O18, O17, O19, O20 and O21. -/

namespace Sys2Proof.Machine

/-! Failing steps and the halt -/

/-- Rules R230, R232: a next state is a wait, an error entry, or the effect of the oldest command; for a rejection is
an error entry that keeps the first code. -/
theorem step_waits_raises_or_runs {s t : State} (h : step s = .next t) :
    t = s ∨ (∃ cause, t = s.raise cause) ∨
      ∃ c rest i, s.cmds = c :: rest ∧ decode c = .ok i ∧ Effect s i t := by
  rcases step_cases h with ⟨_, ht⟩ | ⟨c, _, _, _, _, ht⟩ | ⟨c, rest, i, hc, hd, hexec⟩
  · exact .inl (Host.Outcome.next.inj ht)
  · obtain rfl := Host.Outcome.next.inj ht
    rcases s.illegalWord_cases c.cmd with ⟨hhalt, hr⟩ | hr
    · exact .inr (.inl ⟨.illegal, by rw [hr, State.raise_of_halted hhalt]⟩)
    · exact .inr (.inl ⟨.illegal, hr⟩)
  · rcases exec_cases hexec.symm with ⟨hhalt, _, hr⟩ | ⟨_, hraise⟩ | ⟨_, _, _, _, hwait⟩ | ⟨_, he⟩
    · exact .inr (.inl ⟨.illegal, by rw [hr, State.raise_of_halted hhalt]⟩)
    · exact .inr (.inl hraise)
    · exact .inl hwait
    · exact .inr (.inr ⟨c, rest, i, hc, hd, he⟩)

/-- Rule R230: a step that gives a failed response is an error entry, and the response is that entry's. -/
theorem step_raises_of_failed_response {s t : State} {x : Word} (h : step s = .next t)
    (hresps : t.resps = s.resps ++ [⟨false, x⟩]) : x = 0 ∧ ∃ cause, t = s.raise cause := by
  rcases step_waits_raises_or_runs h with rfl | ⟨cause, rfl⟩ | ⟨_, _, _, _, _, he⟩
  · simp at hresps
  · exact ⟨by simpa using hresps.symm, cause, rfl⟩
  · obtain ⟨_, data, hok⟩ := he.resps
    simp [hok] at hresps

/-- Settles O16: a failed response is an error entry's, which is one update of the state and keeps the first code. -/
theorem errorsArePrecise : Obligations.ErrorsArePrecise := by
  intro s t x h hresps
  obtain ⟨hx, cause, rfl⟩ := step_raises_of_failed_response h hresps
  exact ⟨hx, _, s.raise_eq cause, fun hhalt => if_pos hhalt⟩

/-- Rules R231, R233, R234: a halted engine stays halted with its cause code, unless the step runs an ERRCLR. -/
theorem step_keeps_halt {s t : State} (hhalt : s.errv = true) (h : step s = .next t)
    (hno : ¬ ∃ c rest, s.cmds = c :: rest ∧ decode c = .ok .errclr) : t.errv = true ∧ t.errcode = s.errcode := by
  rcases step_waits_raises_or_runs h with rfl | ⟨cause, rfl⟩ | ⟨c, rest, i, hc, hd, he⟩
  · exact ⟨hhalt, rfl⟩
  · simp [hhalt]
  · by_contra hchange
    obtain ⟨rfl, _⟩ := he.error_writer (by rwa [hhalt, ← not_and_or])
    exact hno ⟨c, rest, hc, hd⟩

/-- Settles O18: an ERRCLR at the head of the port is accepted and clears, and no other step leaves the halt. -/
theorem onlyErrclrLeavesHalt : Obligations.OnlyErrclrLeavesHalt := by
  intro s t hhalt h
  by_cases hclr : ∃ c rest, s.cmds = c :: rest ∧ decode c = .ok .errclr
  · obtain ⟨c, rest, hc, hd⟩ := hclr
    rw [stepRunsDecodedCommand s c rest .errclr hc hd, exec_errclr] at h
    obtain rfl := Host.Outcome.next.inj h
    exact .inr ⟨c, rest, hc, hd, rfl, rfl, rfl, rfl, rfl⟩
  · obtain ⟨herrv, hcode⟩ := step_keeps_halt hhalt h hclr
    exact .inl ⟨herrv, hcode, hclr⟩

/-! The acceptance matrix (rule R226) -/

/-- Rule R227: every command starts with the checks. -/
theorem exists_exec_eq_checked (i : Instr) (s : State) : ∃ run, exec i s = checked i s run := by
  cases i <;> exact ⟨_, rfl⟩

/-- Rule R232. -/
theorem exec_of_halted {i : Instr} {s : State} (hhalt : s.errv = true) (hi : acceptedHalted i = false) :
    exec i s = .next s.reject := by
  obtain ⟨run, hrun⟩ := exists_exec_eq_checked i s
  rw [hrun, checked_halted run hhalt hi]

/-- Settles O17: none of the eleven commands is accepted while halted. -/
theorem haltedEngineRejects : Obligations.HaltedEngineRejects := by
  intro s hhalt rejected
  have rejects {i : Instr} (hi : acceptedHalted i = false) : exec i s = rejected := exec_of_halted hhalt hi
  exact ⟨fun _ _ _ => rejects rfl, fun _ _ _ _ => rejects rfl, fun _ => rejects rfl, rejects rfl, rejects rfl,
    fun _ _ => rejects rfl, fun _ => rejects rfl, rejects rfl, rejects rfl, fun _ _ => rejects rfl,
    fun _ _ _ => rejects rfl⟩

/-- Rule R231: on an engine that is not halted error entry records its cause. -/
theorem State.raise_of_running {s : State} (hrun : s.errv = false) (cause : Cause) :
    s.raise cause = { s with
      errv := true, errcode := cause.code, cmds := s.cmds.tail, resps := s.resps ++ [⟨false, 0⟩] } := by
  rw [State.raise_eq, hrun]
  rfl

/-- Rules R222, R226: a legal command the mode does not accept raises SEQ. -/
theorem exec_of_unaccepted {i : Instr} {s : State} (hrun : s.errv = false) (hlegal : i.wellFormed = true)
    (hmode : acceptedIn i s.mode = false) : exec i s = .next (s.raise .seq) := by
  obtain ⟨run, h⟩ := exists_exec_eq_checked i s
  rw [h, checked_seq run hrun hlegal hmode]

/-- Settles O19: each command in a mode of which rule R226's matrix says that it does not accept the command. -/
theorem sequencingErrors : Obligations.SequencingErrors := by
  intro s hrun seqError
  have raises {i : Instr} (hlegal : i.wellFormed = true) (hmode : acceptedIn i s.mode = false) : exec i s = seqError :=
    (exec_of_unaccepted hrun hlegal hmode).trans (congrArg _ (State.raise_of_running hrun .seq))
  refine ⟨fun hopen => ?inCall, fun hmode o => ?encv, fun hmode => ?decv, fun hidle => ?endCall⟩
  case inCall =>
    have hno : (s.mode == .idle) = false := by simpa using hopen
    exact ⟨fun _ _ _ => raises rfl hno, fun _ _ _ _ => raises rfl hno, fun _ => raises rfl hno, raises rfl hno,
      raises rfl hno, fun m _ hm => raises ((beginModeLegal_iff m).2 hm) hno, fun _ _ => raises rfl hno,
      fun _ _ _ => raises rfl hno⟩
  case encv => exact raises rfl (by rcases hmode with hmode | hmode <;> rw [hmode] <;> rfl)
  case decv => exact raises rfl (by simpa [acceptedIn] using hmode)
  case endCall => exact raises rfl (by rw [hidle]; rfl)

/-! Ranges (rules R223, R224) -/

section Ready

variable {s : State} (h : s.Ready)

include h

/-- Rule R223. -/
theorem State.Ready.exec_cfg_beyond_depth {f d : BitVec 5}
    (hfd : s.params.maxLog2F.val < f.toNat ∨ s.params.maxLog2D.val < d.toNat) (w : Width) :
    exec (.cfg w f d) s = .next (s.raise .cfgRange) := by
  have hrange : ¬ s.cfgInRange f d = true := by
    simp only [State.cfgInRange, Bool.and_eq_true, decide_eq_true_eq]
    omega
  change execCfg w f d s = _
  rw [execCfg, h.checked_eq rfl rfl, if_neg hrange]

variable {tbl : Table} {i : BitVec 23} (hi : 2 ^ s.sizeLog2 tbl ≤ i.toNat)

include hi

/-- Rules R182, R224. -/
theorem State.Ready.exec_rdtbl_beyond_size : exec (.rdtbl tbl i) s = .next (s.raise .badIdx) := by
  have hsize : ¬ s.indexInSize tbl i = true := by simpa [State.indexInSize] using hi
  change execRdtbl tbl i s = _
  rw [execRdtbl, h.checked_eq rfl rfl, if_neg hsize]

/-- Rules R183, R224. -/
theorem State.Ready.exec_wrtbl_beyond_size (o : Word) : exec (.wrtbl tbl i o) s = .next (s.raise .badIdx) := by
  have hsize : ¬ s.indexInSize tbl i = true := by simpa [State.indexInSize] using hi
  change execWrtbl tbl i o s = _
  rw [execWrtbl, h.checked_eq rfl rfl, if_neg hsize]

end Ready

/-- Settles O20: the three commands are accepted by a ready engine, and their own range test fails. -/
theorem rangeErrors : Obligations.RangeErrors := by
  intro s hrun hidle
  have ready : s.Ready := ⟨hrun, hidle⟩
  refine ⟨fun w f d hfd => ?cfg, fun tbl i o hi => ?tables⟩
  case cfg =>
    rw [ready.exec_cfg_beyond_depth hfd, State.raise_of_running hrun]
    rfl
  case tables =>
    have hsize : 2 ^ s.sizeLog2 tbl ≤ i.toNat := by rcases hi with ⟨rfl, hi⟩ | ⟨rfl, hi⟩ <;> exact hi
    rw [ready.exec_rdtbl_beyond_size hsize, ready.exec_wrtbl_beyond_size hsize, State.raise_of_running hrun]
    exact ⟨rfl, rfl⟩

/-! Header fields (rule R225) -/

/-- Rules R153, R225: an accepted DECV with a header field tests the field first, and then looks for the payload. -/
theorem exec_decv_of_headerSource {s : State} (hrun : s.errv = false) (hm : s.mode = .dec) {field : BitVec 4}
    {source : Option Byte} (hsrc : s.headerSource = some (field, source)) :
    exec .decv s =
      if badField s.cfg.w field then .next (s.raise .badHdr)
      else if s.payIn.length < payLen s.cfg.w (fieldCode field) then .next s
      else whereSlots s.cursorsExist (.next (s.decodeStep field source)) := by
  change execDecv s = _
  rw [execDecv, checked_run _ (.inl hrun) rfl (by simp [acceptedIn, hm]), hsrc]

/-- Rule R225: where every field has a meaning, DECV waits or decodes, and no error is raised. -/
theorem exec_decv_errv_of_w64 {s t : State} (hrun : s.errv = false) (hm : s.mode = .dec) (hw : s.cfg.w = .w64)
    (h : exec .decv s = .next t) : t.errv = false := by
  cases hsrc : s.headerSource with
  | none =>
    have hwait := (execDecv_of_inputMissing hrun hm (by simp [State.inputMissing, hsrc])).symm.trans h
    rwa [← Host.Outcome.next.inj hwait]
  | some src =>
    obtain ⟨field, source⟩ := src
    have hgood : ¬ badField s.cfg.w field = true := by simp [badField, hw]
    rw [exec_decv_of_headerSource hrun hm hsrc, if_neg hgood] at h
    split at h
    · rwa [← Host.Outcome.next.inj h]
    · obtain ⟨_, hdecoded⟩ := whereSlots_next h
      rw [← Host.Outcome.next.inj hdecoded, State.decodeStep_errv, hrun]

/-- Settles O21: the field test comes before the payload's, and at W = 64 it never fails. -/
theorem badHeaderError : Obligations.BadHeaderError := by
  intro s hrun hm
  refine ⟨fun field hfield hw hcode => ?_, fun hw t => exec_decv_errv_of_w64 hrun hm hw⟩
  obtain ⟨source, hsrc⟩ := State.exists_headerSource hfield
  have hbad : badField s.cfg.w field = true := by
    rw [hw, badField, fieldCode_eq]
    exact decide_eq_true hcode
  rw [exec_decv_of_headerSource hrun hm hsrc, if_pos hbad, State.raise_of_running hrun]
  rfl

end Sys2Proof.Machine

/-! SUPPORT. A decode call beside an encode call (rules R127, R158, R260): the streams an encoder emits, a decoder that
follows it through them value by value, and O50. -/

namespace Sys2Proof.Machine

/-! The streams an encode call emits -/

/-- The header bytes that an ENC call emits from `s` on, through ENCVs of the operands to END: a held field leaves with
the next one, or with 0 at END (rules R152, R154). -/
def State.headerStream (s : State) : List Word → List Byte
  | [] => if s.half then [headerByte s.pend 0] else []
  | o :: os =>
    (if s.half then [headerByte s.pend (s.encodeValue (s.valueOperand o)).field] else []) ++
      (s.encodeStep (s.valueOperand o)).headerStream os

/-- The payload bytes that an ENC call emits from `s` on (rule R151). -/
def State.payloadStream (s : State) : List Word → List Byte
  | [] => []
  | o :: os => (s.encodeValue (s.valueOperand o)).bytes ++ (s.encodeStep (s.valueOperand o)).payloadStream os

theorem State.ended_hdrOut {s : State} (hm : s.mode = .enc) : s.ended.hdrOut = s.hdrOut ++ s.headerStream [] := by
  rw [s.ended_eq (by simp [hm])]
  cases hh : s.half <;> simp [State.headerStream, hh, hm]

theorem State.encodeAll_ended_hdrOut {s : State} (hm : s.mode = .enc) (vs : List Word) :
    (s.encodeAll vs).ended.hdrOut = s.hdrOut ++ s.headerStream vs := by
  induction vs generalizing s with
  | nil => exact State.ended_hdrOut hm
  | cons o os ih =>
    rw [State.encodeAll_cons, ih (by simp [hm]), (State.emitted_encodeStep hm _).hdrOut, List.append_assoc,
      State.headerStream]

theorem State.encodeAll_payOut {s : State} (hm : s.mode = .enc) (vs : List Word) :
    (s.encodeAll vs).payOut = s.payOut ++ s.payloadStream vs := by
  induction vs generalizing s with
  | nil => exact (List.append_nil _).symm
  | cons o os ih =>
    rw [State.encodeAll_cons, ih (by simp [hm]), (State.emitted_encodeStep hm _).payOut, List.append_assoc,
      State.payloadStream]

theorem State.encodeCall_hdrOut (s : State) (k : Bool) (vs : List Word) :
    (s.encodeCall .enc k vs).hdrOut = s.hdrOut ++ (s.begun .enc k).headerStream vs := by
  rw [State.encodeCall, State.encodeAll_ended_hdrOut (s.begun_mode .enc k), State.begun_hdrOut]

theorem State.encodeCall_payOut (s : State) (k : Bool) (vs : List Word) :
    (s.encodeCall .enc k vs).payOut = s.payOut ++ (s.begun .enc k).payloadStream vs := by
  rw [State.encodeCall, State.ended_payOut, State.encodeAll_payOut (s.begun_mode .enc k), State.begun_payOut]

/-- Rule R158: a call of n values emits ceil(n/2) header bytes. -/
theorem State.begun_headerStream_length (s : State) (k : Bool) (vs : List Word) :
    ((s.begun .enc k).headerStream vs).length = (vs.length + 1) / 2 := by
  obtain ⟨hs, _, hout, _, hlen, _⟩ := s.exists_encodeCall_counts k vs
  rwa [List.append_cancel_left ((s.encodeCall_hdrOut k vs).symm.trans hout)]

/-- Rule R152: a held field is the low nibble of the next header byte. -/
theorem State.exists_headerStream_of_half {s : State} (hh : s.half = true) (vs : List Word) :
    ∃ field rest, s.headerStream vs = headerByte s.pend field :: rest := by
  cases vs with
  | nil => exact ⟨0, [], by rw [State.headerStream, if_pos hh]⟩
  | cons o os => exact ⟨_, _, by rw [State.headerStream, if_pos hh, List.singleton_append]⟩

/-! A decoder that follows an encoder -/

/-- The decoder `d` has decoded what the encoder `e` has encoded, and the header bytes `hdr` and the payload bytes `pay`
that `e` emits from here on are before it. The header byte whose first field `e` holds is taken by `d` already: its
second field is pending, and it is counted. -/
structure State.Follows (d e : State) (hdr pay : List Byte) : Prop where
  inv : d.Inv
  running : d.errv = false
  decodes : d.mode = .dec
  sync : e.SyncEq d
  half : d.half = e.half
  header : hdr = (if e.half then [headerByte e.pend d.pend] else []) ++ d.hdrIn
  payload : pay = d.payIn
  vcount : d.vcount = e.vcount
  pcount : d.pcount = e.pcount
  hcount : d.hcount = if e.half then e.hcount + 1 else e.hcount

/-- Rule R150: what BEGIN writes of the synchronisation set depends on that set and on SEED only. -/
theorem State.SyncEq.begun {s t : State} (h : s.SyncEq t) (hseed : s.seed = t.seed) (m n : Mode) (k : Bool) :
    (s.begun m k).SyncEq (t.begun n k) := by
  rw [State.begun_eq, State.begun_eq]
  exact {
    h with
    fcmHash := congrArg (if k then · else 0) h.fcmHash
    dfcmHash := congrArg (if k then · else 0) h.dfcmHash
    prior := by simp only [h.prior, h.cfg, hseed] }

@[simp] theorem State.ended_hdrIn (s : State) : s.ended.hdrIn = s.hdrIn := by simp [State.ended]
@[simp] theorem State.ended_payIn (s : State) : s.ended.payIn = s.payIn := by simp [State.ended]

/-- Rule R154: END leaves the synchronisation set alone. -/
theorem State.SyncEq.ended {s t : State} (h : s.SyncEq t) : s.ended.SyncEq t.ended := by
  constructor
  case tf => simpa [State.ended] using h.tf
  case td => simpa [State.ended] using h.td
  all_goals simp [State.ended, h.cfg, h.hargs, h.fcmHash, h.dfcmHash, h.prior]

/-- Rule R150: BEGIN of a decode call keeps the invariants. -/
theorem State.CanBegin.begun_dec_inv {s : State} (h : s.CanBegin) (k : Bool) : (s.begun .dec k).Inv := by
  cases k with
  | false => exact h.inv.effect (.beginFresh (m := 3) h.idle (by decide))
  | true => exact h.inv.effect (.beginContinued (m := 3) h.idle (by decide))

/-- Rule R150: both calls open with nothing held and nothing counted. -/
theorem State.follows_begun {e d : State} (hd : d.CanBegin) (hsync : e.SyncEq d) (hseed : e.seed = d.seed) (k : Bool) :
    (d.begun .dec k).Follows (e.begun .enc k) d.hdrIn d.payIn where
  inv := hd.begun_dec_inv k
  running := by rw [State.begun_errv, hd.running]
  decodes := State.begun_mode ..
  sync := hsync.begun hseed .enc .dec k
  half := by simp
  header := by simp [State.begun_eq d]
  payload := by rw [State.begun_eq d]
  vcount := by simp
  pcount := by simp
  hcount := by simp

section Follows

variable {d e : State} {hr pr : List Byte}

/-- Rules R153, R155: the field of the next value is where the decoder looks for it: pending if the encoder holds the
field before it, else in the low nibble of the next byte. Past that value the header bytes are in step again. -/
theorem State.Follows.exists_source {o : Word} {os : List Word} {pay : List Byte}
    (h : d.Follows e (e.headerStream (o :: os) ++ hr) pay) :
    ∃ source, d.headerSource = some ((e.encodeValue (e.valueOperand o)).field, source) ∧
      source.isSome = !e.half ∧
      let e' := e.encodeStep (e.valueOperand o)
      let d' := d.decodeStep (e.encodeValue (e.valueOperand o)).field source
      e'.headerStream os ++ hr = (if e'.half then [headerByte e'.pend d'.pend] else []) ++ d'.hdrIn := by
  have hheader := h.header
  rw [State.headerStream] at hheader
  cases hh : e.half with
  | true =>
    simp only [hh, if_true, List.cons_append, List.cons.injEq] at hheader
    obtain ⟨hbyte, hrest⟩ := hheader
    have hpend : (e.encodeValue (e.valueOperand o)).field = d.pend := by simpa using congrArg highField hbyte
    exact ⟨none, by rw [State.headerSource_half (h.half.trans hh), hpend], rfl, by simpa [hh] using hrest⟩
  | false =>
    obtain ⟨next, rest, hnext⟩ := State.exists_headerStream_of_half
      (s := e.encodeStep (e.valueOperand o)) (by simp [hh]) os
    simp only [State.encodeStep_pend, hh, Bool.false_eq_true, if_false] at hnext
    simp only [hh, Bool.false_eq_true, if_false, List.nil_append, hnext, List.cons_append] at hheader
    have hsrc := State.headerSource_fresh (h.half.trans hh) hheader.symm
    rw [lowField_headerByte] at hsrc
    exact ⟨_, hsrc, rfl, by simp [hh, hnext, ← hheader]⟩

/-- Rules R127, R153: while it follows the encoder, a DECV responds the value that the encoder encodes next, and follows
the encoder past its ENCV. -/
theorem State.Follows.decv {o : Word} {os : List Word} (he : e.CanEncode)
    (h : d.Follows e (e.headerStream (o :: os) ++ hr) (e.payloadStream (o :: os) ++ pr)) :
    ∃ d', exec .decv d = .next d' ∧ d'.resps = d.resps ++ [⟨true, BitVec.ofNat 64 (e.valueOperand o)⟩] ∧
      d'.Follows (e.encodeStep (e.valueOperand o)) ((e.encodeStep (e.valueOperand o)).headerStream os ++ hr)
        ((e.encodeStep (e.valueOperand o)).payloadStream os ++ pr) := by
  obtain ⟨source, hsrc, hsome, hheader⟩ := h.exists_source
  have hv : e.valueOperand o < 2 ^ widthBits d.cfg.w := h.sync.cfg ▸ e.valueOperand_lt o
  have hsame := h.sync.encodeValue_eq he.inv (e.valueOperand o)
  have hpay := h.payload.symm
  rw [State.payloadStream, List.append_assoc] at hpay
  have hvalue := State.decodedValue_encodeValue hv (hsame ▸ hpay)
  have hgood := d.badField_encodeValue (e.valueOperand o)
  have hbytes := d.encodeValue_bytes_length (e.valueOperand o)
  rw [hsame] at hvalue hgood hbytes
  have hlen : payLen d.cfg.w (fieldCode (e.encodeValue (e.valueOperand o)).field) ≤ d.payIn.length := by
    rw [← hbytes, hpay, List.length_append]
    exact Nat.le_add_right _ _
  refine ⟨_, exec_decv_of_accepted h.inv h.running h.decodes hsrc hgood hlen, ?_, ?_⟩
  · rw [State.decodeStep_resps, hvalue]
  · exact {
      inv := h.inv.effect (.decv h.decodes hsrc hgood hlen h.inv.cursorsExist)
      running := by rw [State.decodeStep_errv, h.running]
      decodes := by rw [State.decodeStep_mode, h.decodes]
      sync := h.sync.valueSteps source hvalue
      half := by rw [State.decodeStep_half, hsome, State.encodeStep_half]
      header := hheader
      payload := by rw [State.decodeStep_payIn, ← hbytes, hpay, List.drop_left]
      vcount := by rw [State.decodeStep_vcount, State.encodeStep_vcount, h.vcount]
      pcount := by
        rw [State.decodeStep_pcount, State.encodeStep_pcount, h.pcount, ← hbytes, State.encodeValue_bytes,
          serialize_length]
      hcount := by
        rw [State.decodeStep_hcount, hsome, State.encodeStep_half, State.encodeStep_hcount, h.hcount] }

/-- Rule R260: the DECVs of a call complete, whatever follows them, and respond the values. -/
theorem State.Follows.execAll_decvs (he : e.CanEncode) (vs : List Word) (rest : List Instr)
    (h : d.Follows e (e.headerStream vs ++ hr) (e.payloadStream vs ++ pr)) :
    ∃ d', execAll (List.replicate vs.length .decv ++ rest) d = execAll rest d' ∧
      d'.resps = d.resps ++ vs.map (fun o => ⟨true, BitVec.ofNat 64 (o.toNat % 2 ^ widthBits e.cfg.w)⟩) ∧
      d'.Follows (e.encodeAll vs) ((e.encodeAll vs).headerStream [] ++ hr) pr := by
  induction vs generalizing d e with
  | nil => exact ⟨d, rfl, by simp, h⟩
  | cons o os ih =>
    obtain ⟨d', hexec, hresps, hnext⟩ := h.decv he
    obtain ⟨d'', hrun, hresps', hlast⟩ := ih (he.encodeStep o) hnext
    refine ⟨d'', (execAll_cons_of_next hexec _).trans hrun, ?_, hlast⟩
    rw [hresps', hresps, State.encodeStep_cfg, List.append_assoc]
    rfl

/-- Rule R154: with no value left the decoder has taken exactly the streams. -/
theorem State.Follows.streams_consumed (h : d.Follows e (e.headerStream [] ++ hr) pr) :
    d.hdrIn = hr ∧ d.payIn = pr := by
  have hheader := h.header
  rw [State.headerStream] at hheader
  refine ⟨?_, h.payload.symm⟩
  cases hh : e.half with
  | false => simpa [hh] using hheader.symm
  | true =>
    simp only [hh, if_true, List.singleton_append, List.cons.injEq] at hheader
    exact hheader.2.symm

/-- Rule R154: the END of the encoder counts the byte of a held field, which the decoder has counted. -/
theorem State.Follows.ended_hcount {hdr pay : List Byte} (h : d.Follows e hdr pay) (hm : e.mode = .enc) :
    d.ended.hcount = e.ended.hcount := by
  rw [d.ended_eq (by simp [h.decodes]), e.ended_eq (by simp [hm])]
  simp [h.decodes, hm, h.hcount]

end Follows

/-- A decode call on the streams of an encode call (rule R260). -/
theorem State.execAll_decodeCall {e d : State} {vs : List Word} {k : Bool} (he : e.CanBegin) (hd : d.CanBegin)
    (hsync : e.SyncEq d) (hseed : e.seed = d.seed) {hr pr : List Byte}
    (hhdr : d.hdrIn = (e.begun .enc k).headerStream vs ++ hr)
    (hpay : d.payIn = (e.begun .enc k).payloadStream vs ++ pr) :
    ∃ d' : State, execAll (callOf 3 k (List.replicate vs.length .decv)) d = .next d'.ended ∧
      d'.resps = d.resps ++ [⟨true, 0⟩] ++
        vs.map (fun o => ⟨true, BitVec.ofNat 64 (o.toNat % 2 ^ widthBits e.cfg.w)⟩) ∧
      d'.Follows ((e.begun .enc k).encodeAll vs) (((e.begun .enc k).encodeAll vs).headerStream [] ++ hr) pr := by
  have hbegun := State.follows_begun hd hsync hseed k
  rw [hhdr, hpay] at hbegun
  obtain ⟨d', hrun, hresps, hlast⟩ := hbegun.execAll_decvs (he.begun (m := 1) (.inl rfl) k) vs [.endCall]
  have hend := exec_endCall_of_accepted hlast.running (by simp [hlast.decodes])
  refine ⟨d', ?_, ?_, hlast⟩
  · rw [callOf, execAll_cons_of_next (hd.exec_begin (m := 3) (by decide) k)]
    exact hrun.trans (execAll_cons_of_next hend [])
  · rw [hresps, State.begun_cfg, State.begun_eq]

/-- Settles O50: the decoder follows the encoder from BEGIN through every value, and END closes both. -/
theorem decodeCallReturnsTheEncodedValues : Obligations.DecodeCallReturnsTheEncodedValues := by
  intro e d vs k he hd hsync hseed herun hdrun heidle hdidle
  have hebegin : e.CanBegin := ⟨⟨herun, heidle⟩, he⟩
  refine ⟨e.encodeCall .enc k vs, _, _, hebegin.execAll_callOf (.inl rfl) k vs, e.encodeCall_hdrOut k vs,
    e.encodeCall_payOut k vs, e.begun_headerStream_length k vs, fun hr pr => ?_⟩
  have hdbegin : ({ d with
      hdrIn := (e.begun .enc k).headerStream vs ++ hr
      payIn := (e.begun .enc k).payloadStream vs ++ pr } : State).CanBegin := ⟨⟨hdrun, hdidle⟩, { hd with }⟩
  obtain ⟨d', hrun, hresps, hlast⟩ := State.execAll_decodeCall hebegin hdbegin { hsync with } hseed rfl rfl
  obtain ⟨hhdr, hpay⟩ := hlast.streams_consumed
  refine ⟨d'.ended, hrun, ?_, ?_, ?_, hlast.sync.ended, ?_, ?_, hlast.ended_hcount (by simp)⟩
  · rw [State.ended_resps, hresps, hlast.pcount, State.encodeCall, State.ended_pcount]
  · rw [State.ended_hdrIn, hhdr]
  · rw [State.ended_payIn, hpay]
  · rw [State.encodeCall, State.ended_vcount, State.ended_vcount, hlast.vcount]
  · rw [State.encodeCall, State.ended_pcount, State.ended_pcount, hlast.pcount]

end Sys2Proof.Machine

/-! SUPPORT. Hardware reset (rules R250, R251, R253): O9 and O14. -/

namespace Sys2Proof.Machine

/-- Rules R67, R252: an engine whose command port is empty runs the first command presented. -/
theorem step_present_of_empty {s : State} (hempty : s.cmds = []) {c : Command} {i : Instr} (hd : decode c = .ok i) :
    step (s.host (.present c)) = exec i (s.host (.present c)) := by
  refine stepRunsDecodedCommand _ c [] i ?_ hd
  rw [State.host, hempty, List.nil_append]

/-- Rules R39, R250: every field of STATUS is 0. -/
theorem State.resetWith_status (params : Params) (draws : Nat) : (State.resetWith params draws).status = 0 :=
  BitVec.eq_of_toNat_eq (State.status_toNat _)

/-- Settles O9: the values are those `State.resetWith` names, and its command port is empty. -/
theorem resetLeavesStatedValues : Obligations.ResetLeavesStatedValues :=
  fun p d => ⟨rfl, rfl, rfl, rfl, rfl, rfl, rfl, rfl, rfl, rfl, rfl, rfl, rfl, rfl, rfl, rfl, rfl, rfl, rfl,
    State.resetWith_status p d, State.resetWith_sixInvariants p d,
    fun _ _ hd => step_present_of_empty (s := State.resetWith p d) rfl hd⟩

/-- Rule R253: hardware reset as one update of the reset state. -/
theorem State.host_hardwareReset_eq (s : State) :
    s.host .hardwareReset = { State.resetWith s.params s.draws with resps := s.resps } := rfl

/-- Settles O14: the reset state has empty streams and an empty command port, and its tables are two images of free
values. -/
theorem hardwareResetAtAnyTime : Obligations.HardwareResetAtAnyTime := by
  intro s t
  have hreset : t = { State.resetWith s.params s.draws with resps := s.resps } := s.host_hardwareReset_eq
  rw [hreset]
  exact ⟨rfl, rfl, rfl, rfl, rfl, rfl, rfl, Ram.unspecified_read s.draws, Ram.unspecified_read (s.draws + 1)⟩

end Sys2Proof.Machine

/-! SUPPORT. The sample words of section 2.1 of the test vectors: O4. -/

namespace Sys2Proof.Machine

/-- Rules R82-R88: a command that is the encoding of a legal command decodes to it. -/
theorem decode_of_encode_eq {i : Instr} {c : Command} (hi : i.wellFormed = true) (hc : encode i = c) :
    decode c = .ok i :=
  hc ▸ decodeReadsBackEveryEncoding i hi

/-- Rule R88: the word of a command that reads no operand decodes to it with every operand. -/
theorem decode_encodeWord_of_operandIgnored {i : Instr} (hi : i.wellFormed = true)
    (hignored : opcodeNumber i ∉ [0x03#8, 0x07#8, 0x0C#8]) (operand : Word) :
    decode ⟨encodeWord i, operand⟩ = .ok i := by
  refine decode_eq_ok_iff.2 ⟨opcodeOf_encodeWord i, ?_⟩
  have hown : i.FieldsIn (encodeWord i) (encodeOperand i) := Instr.fieldsIn_encode hi
  cases i with
  | seed o | encv o | wrtbl t idx o => exact absurd (by simp [opcodeNumber]) hignored
  | _ => exact hown

/-- Rules R82, R90: a word of format N with a reserved bit at 1 is refused for that bit. -/
theorem decode_formatN_of_reservedBit {c : Command}
    (hop : (opcodeOf c.cmd).toNat ∈ [0x00, 0x03, 0x04, 0x05, 0x07, 0x08, 0x09, 0x0D])
    (hbit : reservedZeroN c.cmd = false) : decode c = .error .reservedBit := by
  simp only [List.mem_cons, List.not_mem_nil, or_false] at hop
  rcases hop with hop | hop | hop | hop | hop | hop | hop | hop <;> simp [decode, hop, ifReservedZero, hbit]

/-- Settles O4: NOP's word comes with an operand it ignores, the words up to the last are the encodings of their
commands, and the last is ERRCLR's with the reserved bit 8 set. -/
theorem sampleWordsDecode : Obligations.SampleWordsDecode := by
  refine ⟨?nop, ?cfg, ?hargs, ?begin, ?encv, ?rdreg, ?wrtbl, ?errclrBit8⟩
  case nop => exact decode_encodeWord_of_operandIgnored (i := .nop) rfl (by decide) 5
  case errclrBit8 => exact decode_formatN_of_reservedBit (by decide) (by decide)
  all_goals exact decode_of_encode_eq (by decide) (by decide)

end Sys2Proof.Machine
